-- ==== Sys2Proof/Word.lean ====
section
/-! DEFINITION. The word types of MBCODEC (00_scope R11, R12): unsigned vectors of 8, 16, 32 and 64 bits. -/

namespace Sys2Proof

/-- `u8` (R11). -/
abbrev Byte := BitVec 8

/-- `u16` (R11). -/
abbrev Word16 := BitVec 16

/-- `u32` (R11). -/
abbrev Word32 := BitVec 32

/-- A host command word `CW`, or the data word `RAW` of `DEC` (30_encoding R85). -/
abbrev Word64 := BitVec 64

end Sys2Proof
end

