-- ==== Sys2Proof/Config.lean ====
section
/-! DEFINITION. The parameters of 00_scope R7 and R8, and the free values of the channel (43_session R165, R166). -/

namespace Sys2Proof

/-- What the channel answers to one `ChanWrite` (00_scope R16: `write(bytes) -> count written`, or an I/O error). -/
inductive WriteAnswer where
  | ioerror
  | count (n : Nat)
deriving DecidableEq, Repr, Inhabited

/-- What the channel answers to one `ChanRead` (00_scope R16): an I/O error, or bytes, none of them when the read timed
out. -/
inductive ReadAnswer where
  | ioerror
  | bytes (r : List Byte)
deriving DecidableEq, Repr, Inhabited

/-- What a channel write that reports fewer bytes than the frame means (00_scope R8, 93 U11). -/
inductive ShortWritePolicy where
  | error
  | accept
deriving DecidableEq, Repr

/-- What the host does with a negative integer value (00_scope R8, 41_encoder R128, 93 U5). -/
inductive NegPolicy where
  | refuse
  | wrap
deriving DecidableEq, Repr

namespace Config

/-- `CRC_WIDTH` (R7). -/
abbrev crcWidth : Nat := 16

/-- `VALUE_WIDTH` (R7). -/
abbrev valueWidth : Nat := 32

end Config

/-- A value of the CRC register (10_state R21): `CRC_WIDTH` bits. -/
abbrev CrcWord := BitVec Config.crcWidth

/-- A value on the value port of `ENC` (41_encoder R128): `VALUE_WIDTH` bits. -/
abbrev ValueWord := BitVec Config.valueWidth

namespace Config

/-- `CRC_POLY`, normal form (R7, 40_crc16 R100). -/
abbrev crcPoly : CrcWord := 0x8005

/-- `CRC_POLY`, the reflected form the datapath uses (R7, 40_crc16 R101). -/
abbrev crcPolyR : CrcWord := 0xA001

/-- `CRC_INIT` (R7). -/
abbrev crcInit : CrcWord := 0xFFFF

/-- `CRC_XOROUT` (R7): no final XOR. -/
abbrev crcXorOut : CrcWord := 0x0000

/-- `FC_U16` (R7). -/
abbrev fcU16 : Byte := 0x06

/-- `FC_U32` (R7). -/
abbrev fcU32 : Byte := 0x03

/-- `LEN_U16` (R7, 90_conflicts C1). -/
abbrev lenU16 : Nat := 8

/-- `LEN_U32` (R7, 90_conflicts C1). -/
abbrev lenU32 : Nat := 10

/-- `TX_MAX` (R7): bytes of the transmit buffer. -/
abbrev txMax : Nat := 10

/-- `RX_MAX` (R7): bytes of the receive buffer and of one channel read. -/
abbrev rxMax : Nat := 8

/-- The shortest response the validator checks (42_decoder R143). -/
abbrev minResponse : Nat := 4

/-- `UNIT_DEFAULT` (R7, 90_conflicts C2): the unit id that `CMD` passes (30_encoding R91). -/
abbrev unitDefault : Byte := 1

/-- `T_SETTLE_MS` (R7): no rule reads it (70_reset_and_hazards R226, log 18). -/
abbrev tSettleMs : Nat := 300

/-- `T_READ_MS` (R7): no rule reads it (log 18). -/
abbrev tReadMs : Nat := 500

/-- `T_PAUSE_MS` (R7), lower bound: no rule reads it (log 18). -/
abbrev tPauseMinMs : Nat := 500

/-- `T_PAUSE_MS` (R7), upper bound: no rule reads it (log 18). -/
abbrev tPauseMaxMs : Nat := 1000

/-- The default of `SHORT_WRITE_POLICY` (00_scope R8, 43_session R162). The setting is the field of that name in State
(log 7). -/
def shortWriteDefault : ShortWritePolicy := .error

/-- The default of `NEG_POLICY` (00_scope R8, 41_encoder R128). The setting is an argument of the host's side (log 8). -/
def negDefault : NegPolicy := .refuse

/-- `REGMAP` (00_scope R8): the bus address of a port by its name, if an integrator gives it one. Open, and no rule
depends on it (log 23). -/
opaque regMap : String → Option Nat

/-- FREE VALUE (43_session R165, log 5): the channel's answer to a write for which the outside has placed no answer, by
the number of the draw. -/
opaque freeWrite : Nat → WriteAnswer

/-- FREE VALUE (43_session R166, log 6): the channel's answer to a read for which the outside has placed no answer, by
the number of the draw. -/
opaque freeRead : Nat → ReadAnswer

end Config

end Sys2Proof
end

