-- ==== Sys2Proof/Machine/Bytes.lean ====
section
/-! DEFINITION. Byte order and bit fields: the notation of 00_scope R12, R13 and of 30_encoding R75, R85. -/

namespace Sys2Proof.Machine

/-- A field whose bit 0 stands at bit `pos` of a word of `w` bits, the other bits 0. -/
def fieldAt (w pos : Nat) {n : Nat} (b : BitVec n) : BitVec w := b.setWidth w <<< pos

/-- `lo8(v) = v[7:0]` (R12). -/
def lo8 (v : Word16) : Byte := v.extractLsb' 0 8

/-- `hi8(v) = v[15:8]` (R12). -/
def hi8 (v : Word16) : Byte := v.extractLsb' 8 8

/-- `be16(v) = [hi8(v), lo8(v)]` (R13). -/
def be16 (v : Word16) : List Byte := [hi8 v, lo8 v]

/-- `be32(v)`, most significant byte first (R13). -/
def be32 (v : Word32) : List Byte :=
  [v.extractLsb' 24 8, v.extractLsb' 16 8, v.extractLsb' 8 8, v.extractLsb' 0 8]

/-- `le16(v) = [lo8(v), hi8(v)]` (R13). -/
def le16 (v : Word16) : List Byte := [lo8 v, hi8 v]

/-- The number `lo + 256 * hi` of two bytes in little-endian order (42_decoder R142, R147). -/
def ofLe16 (lo hi : Byte) : Word16 := fieldAt 16 8 hi ||| fieldAt 16 0 lo

/-- The number of two bytes in big-endian order (20_memory R51). -/
def ofBe16 (b1 b0 : Byte) : Word16 := fieldAt 16 8 b1 ||| fieldAt 16 0 b0

/-- The number of four bytes in big-endian order (20_memory R51). -/
def ofBe32 (b3 b2 b1 b0 : Byte) : Word32 :=
  fieldAt 32 24 b3 ||| fieldAt 32 16 b2 ||| fieldAt 32 8 b1 ||| fieldAt 32 0 b0

/-- The `n` bytes of the number `w`, most significant first: byte `i` of a frame written as one number (30_encoding R75). -/
def bytesOfNat : Nat → Nat → List Byte
  | 0, _ => []
  | n + 1, w => BitVec.ofNat 8 (w >>> (8 * n)) :: bytesOfNat n w

/-- The number a byte sequence stands for, byte 0 leftmost (30_encoding R75). -/
def natOfBytes : List Byte → Nat
  | [] => 0
  | b :: bs => b.toNat <<< (8 * bs.length) + natOfBytes bs

/-- The first `n` response bytes of `RAW`: byte `i` is `RAW[63-8i : 56-8i]` (30_encoding R85). -/
def rawBytes (n : Nat) (raw : Word64) : List Byte :=
  [raw.extractLsb' 56 8, raw.extractLsb' 48 8, raw.extractLsb' 40 8, raw.extractLsb' 32 8,
   raw.extractLsb' 24 8, raw.extractLsb' 16 8, raw.extractLsb' 8 8, raw.extractLsb' 0 8].take n

/-- `RAW` of a byte sequence of at most 8 bytes, the bytes that `DEC` ignores being 0 (30_encoding R85). -/
def packRaw (bs : List Byte) : Word64 :=
  fieldAt 64 56 (bs.getD 0 0) ||| fieldAt 64 48 (bs.getD 1 0) ||| fieldAt 64 40 (bs.getD 2 0) |||
  fieldAt 64 32 (bs.getD 3 0) ||| fieldAt 64 24 (bs.getD 4 0) ||| fieldAt 64 16 (bs.getD 5 0) |||
  fieldAt 64 8 (bs.getD 6 0) ||| fieldAt 64 0 (bs.getD 7 0)

end Sys2Proof.Machine
end

