-- ==== Sys2Proof/Machine/Crc16.lean ====
section
/-! DEFINITION. The pure functions of the CRC unit (40_crc16 R102, R104, R106) and their equivalent forms (R111, R112). -/

namespace Sys2Proof.Machine

/-- One bit step, `crc_bit(c)` (R102). -/
def crcBit (c : CrcWord) : CrcWord :=
  if c.getLsbD 0 then (c >>> 1) ^^^ Config.crcPolyR else c >>> 1

/-- `n` bit steps. -/
def crcBits : Nat → CrcWord → CrcWord
  | 0, c => c
  | n + 1, c => crcBits n (crcBit c)

/-- One byte step, `crc_update(c, b)` (R104). -/
def crcUpdate (c : CrcWord) (b : Byte) : CrcWord :=
  crcBits 8 (c ^^^ b.zeroExtend Config.crcWidth)

/-- The running value after the bytes `s`, in input order (R106). -/
def crcFeed (c : CrcWord) (s : List Byte) : CrcWord :=
  s.foldl crcUpdate c

/-- `crc16(s)` (R106). -/
def crc16 (s : List Byte) : CrcWord :=
  crcFeed Config.crcInit s ^^^ Config.crcXorOut

/-- The table entry `T[i]` (R111): 8 bit steps on `zext_16(i)`. -/
def crcTable (i : Byte) : CrcWord :=
  crcBits 8 (i.zeroExtend Config.crcWidth)

/-- The table form of the byte step (R111). -/
def crcUpdateByTable (c : CrcWord) (b : Byte) : CrcWord :=
  (c >>> 8) ^^^ crcTable (lo8 (c ^^^ b.zeroExtend Config.crcWidth))

/-- One data bit of the bit-serial form (R112). -/
def crcSerialBit (c : CrcWord) (d : Bool) : CrcWord :=
  if c.getLsbD 0 ^^ d then (c >>> 1) ^^^ Config.crcPolyR else c >>> 1

/-- The bit-serial form of the byte step: bit 0 first (R112). -/
def crcUpdateSerial (c : CrcWord) (b : Byte) : CrcWord :=
  (List.range 8).foldl (fun c k => crcSerialBit c (b.getLsbD k)) c

end Sys2Proof.Machine
end

