-- ==== Sys2Proof/Syntax.lean ====
section
/-! DEFINITION. The ten rows of spec/opcode_table.json (30_encoding R93): seven host commands, two request frames, one
response. -/

namespace Sys2Proof

/-- The one-bit data type selector (30_encoding R88, 41_encoder R121): U16, or any other tag, which is U32. -/
inductive DType where
  | u16
  | u32
deriving DecidableEq, Repr

/-- The closed set of reasons for which the block declines a command (00_scope R15, 60_exceptions R188). -/
inductive RefuseReason where
  | badOp
  | badLen
  | busy
  | noFrame
deriving DecidableEq, Repr

/-- One constructor per row of the opcode table. -/
inductive Instr where
  /-- `CRC.INIT` (40_crc16 R103). -/
  | crcInit
  /-- `CRC.UPDATE byte` (40_crc16 R105). -/
  | crcUpdate (byte : Byte)
  /-- `CRC.READ` (40_crc16 R107). -/
  | crcRead
  /-- `ENC unit, index, subIndex, dtype, value` (41_encoder R122). -/
  | enc (unit index subIndex : Byte) (dtype : DType) (value : ValueWord)
  /-- `SEND` (43_session R161). -/
  | send
  /-- `DEC [b0 ... b(n-1)]` (42_decoder R141). -/
  | dec (bytes : List Byte)
  /-- `RESET` (43_session R170). -/
  | reset
  /-- The `WR16` request frame (30_encoding R76, 41_encoder R129). -/
  | wr16 (unit index subIndex : Byte) (value : Word16) (crcLow crcHigh : Byte)
  /-- The `WR32` request frame (30_encoding R77, 41_encoder R130). -/
  | wr32 (unit index subIndex : Byte) (value : Word32) (crcLow crcHigh : Byte)
  /-- The `RESP` response (30_encoding R79, 42_decoder R147). -/
  | resp (bytes : List Byte)
deriving DecidableEq, Repr

end Sys2Proof
end

