-- ==== Sys2Proof/Machine/State.lean ====
section
/-! DEFINITION. The state of one block (10_state R20), the other two agents as plain data (00_scope R10), and what a run
exposes (70_reset_and_hazards R235); the state after reset (10_state R40). -/

namespace Sys2Proof.Machine

/-- The contents of a buffer: (address, byte) pairs with strictly rising addresses. An address that is not listed holds no
value (00_scope R19, 93 U4). -/
abbrev Memory := List Host.Cell

/-- The two buffer address spaces (10_state R39). -/
inductive Space where
  | tx
  | rx
deriving DecidableEq, Repr

/-- `SESS` (10_state R23). -/
inductive Sess where
  | idle
  | await
deriving DecidableEq, Repr

/-- `ERRKIND` (10_state R33). Code 3 is never produced, so there is no constructor for it (93 U10). -/
inductive ErrKind where
  /-- `NONE` -/
  | noError
  | noResponse
  | channelIo
deriving DecidableEq, Repr

/-- A host command waiting to be issued: the two words of 30_encoding R85. `early` says that the host issues it without
waiting for a running `SEND` to return, against its duty (70_reset_and_hazards R220, log 3). -/
structure Command where
  cw : Word64
  raw : Word64
  early : Bool
deriving DecidableEq, Repr

/-- What an operation returns to the host (00_scope R15). -/
inductive HostResult where
  | ok
  | okCrc (crc : CrcWord) (lo hi : Byte)
  | okFrame (frame : List Byte)
  | okExchange (success : Bool) (resp : List Byte) (err : ErrKind)
  | refused (r : RefuseReason)
deriving DecidableEq, Repr

/-- An event of the wire trace (70_reset_and_hazards R235). -/
inductive WireEvent where
  | write (bytes : List Byte)
  | read (answer : ReadAnswer)
deriving DecidableEq, Repr

/-- Why a step can stop with a fault. -/
inductive Fault where
  /-- Raised by a read port or an operation that reads a buffer byte or a view that holds no value (93 U4). Safe. -/
  | noValue (space : Space) (addr : Nat)
  /-- Raised by an access to an address outside the buffer (10_state R39). Safe. -/
  | noSuchAddress (space : Space) (addr : Nat)
deriving DecidableEq, Repr

/-- Why a step can have no meaning. The spec's own refusals are results of a next state, not these (log 4). -/
inductive Refusal where
  /-- An instruction the model has no meaning for. No arm answers with it. Safe. -/
  | notModelled (mnemonic : String)
  /-- Raised by a request frame outside the step `SEND.TX` (43_session R162: enabled when a `SEND` has been accepted and
  `SESS` is `IDLE`). `step` never does so (log 22). Safe. -/
  | sendTxNotEnabled
  /-- Raised by a response outside the step `SEND.RX` (43_session R163: enabled when `SESS` is `AWAIT`). `step` never does
  so (log 22). Safe. -/
  | sendRxNotEnabled
deriving DecidableEq, Repr

/-- The state. The first twelve fields are the whole state of the block (10_state R20). The others are the model's: the
one parameter that the steps read, the host's and the channel's next moves, and what the run has exposed. -/
@[ext]
structure State where
  /-- `CRC` (10_state R21) -/
  crc : CrcWord
  /-- `TXBUF[0..9]` (10_state R22) -/
  txBuf : Memory
  /-- `TXLEN` (10_state R22) -/
  txLen : BitVec 4
  /-- `SESS` (10_state R23) -/
  sess : Sess
  /-- `RXBUF[0..7]` (10_state R24) -/
  rxBuf : Memory
  /-- `RXLEN` (10_state R24) -/
  rxLen : BitVec 4
  /-- `SUCCESS` (10_state R30) -/
  success : Bool
  /-- `ERRKIND` (10_state R33) -/
  errKind : ErrKind
  /-- `V_LEN` (10_state R31) -/
  vLen : Bool
  /-- `V_CRC` (10_state R31) -/
  vCrc : Bool
  /-- `V_FC` (10_state R31) -/
  vFc : Bool
  /-- `VALID` (10_state R31) -/
  valid : Bool
  /-- `SHORT_WRITE_POLICY`, the integrator's setting, which no step changes (00_scope R8, log 7) -/
  shortWritePolicy : ShortWritePolicy
  /-- A `SEND` has been accepted and its `SEND.TX` has not run (43_session R162, log 2) -/
  sendAccepted : Bool
  /-- The host's commands not yet issued, in program order (20_memory R62, log 1) -/
  commands : List Command
  /-- The channel's answers to the coming writes (43_session R165, log 5) -/
  writeAnswers : List WriteAnswer
  /-- The channel's answers to the coming reads (43_session R166, log 6) -/
  readAnswers : List ReadAnswer
  /-- How many free channel answers have been drawn (log 5) -/
  draws : Nat
  /-- The wire trace, oldest first (70_reset_and_hazards R235) -/
  wire : List WireEvent
  /-- The results returned to the host, oldest first (70_reset_and_hazards R235) -/
  results : List HostResult
deriving DecidableEq, Repr

/-- The state after reset: the block as 10_state R40 lists it, the parameter at its default, nothing issued, answered or traced yet (log 10). -/
def State.reset : State where
  crc := Config.crcInit
  txBuf := []
  txLen := 0
  sess := .idle
  rxBuf := []
  rxLen := 0
  success := false
  errKind := .noError
  vLen := false
  vCrc := false
  vFc := false
  valid := false
  shortWritePolicy := Config.shortWriteDefault
  sendAccepted := false
  commands := []
  writeAnswers := []
  readAnswers := []
  draws := 0
  wire := []
  results := []

end Sys2Proof.Machine
end

