-- ==== Sys2Proof/Machine/Flags.lean ====
section
/-! DEFINITION. The function `decode(raw, txfc)` (42_decoder R142): every flag and result register computed from a response. -/

namespace Sys2Proof.Machine

/-- The seven fields `decode` returns (42_decoder R142). -/
structure ExchangeRecord where
  success : Bool
  errKind : ErrKind
  resp : List Byte
  vLen : Bool
  vCrc : Bool
  vFc : Bool
  valid : Bool
deriving DecidableEq, Repr

/-- `SUCCESS` of a response: it is not empty, whatever its content (42_decoder R148). -/
def successOf (raw : List Byte) : Bool := decide (0 < raw.length)

/-- `ERRKIND` of a response (42_decoder R142). -/
def errKindOf (raw : List Byte) : ErrKind := if 0 < raw.length then .noError else .noResponse

/-- `V_LEN` of a response (42_decoder R143). -/
def vLenOf (raw : List Byte) : Bool := decide (Config.minResponse ≤ raw.length)

/-- `V_CRC` of a response: the last two bytes are the little-endian CRC of those before them (42_decoder R144). -/
def vCrcOf (raw : List Byte) : Bool :=
  vLenOf raw && decide (crc16 (raw.take (raw.length - 2)) =
    ofLe16 (raw.getD (raw.length - 2) 0) (raw.getD (raw.length - 1) 0))

/-- `V_FC` of a response to a request with function code `txfc` (42_decoder R145). -/
def vFcOf (raw : List Byte) (txfc : Option Byte) : Bool :=
  match txfc with
  | none => false
  | some fc => decide (raw[1]? = some fc)

/-- The function `decode(raw, txfc)` (42_decoder R142). -/
def decodeExchange (raw : List Byte) (txfc : Option Byte) : ExchangeRecord where
  success := successOf raw
  errKind := errKindOf raw
  resp := raw
  vLen := vLenOf raw
  vCrc := vCrcOf raw
  vFc := vFcOf raw txfc
  valid := vLenOf raw && vCrcOf raw && vFcOf raw txfc

/-- The 2-bit code of `ERRKIND` (10_state R33). -/
def errKindCode : ErrKind → BitVec 2
  | .noError => 0
  | .noResponse => 1
  | .channelIo => 2

/-- The bit of `SESS` (10_state R23). -/
def sessBit : Sess → BitVec 1
  | .idle => 0
  | .await => 1

/-- A flag as one bit. -/
def flagBit (b : Bool) : BitVec 1 := BitVec.ofBool b

/-- The word `STATUS` (10_state R37):
`{VALID, V_FC, V_CRC, V_LEN, ERRKIND[1:0], SUCCESS, SESS, RXLEN[3:0], TXLEN[3:0]}`. -/
def State.status (s : State) : Word16 :=
  fieldAt 16 15 (flagBit s.valid) ||| fieldAt 16 14 (flagBit s.vFc) ||| fieldAt 16 13 (flagBit s.vCrc) |||
  fieldAt 16 12 (flagBit s.vLen) ||| fieldAt 16 10 (errKindCode s.errKind) ||| fieldAt 16 9 (flagBit s.success) |||
  fieldAt 16 8 (sessBit s.sess) ||| fieldAt 16 4 s.rxLen ||| fieldAt 16 0 s.txLen

end Sys2Proof.Machine
end

