-- ==== Sys2Proof/Machine/Ops.lean ====
section
/-! DEFINITION. The named operations on buffers, registers, results and the channel, and what `raise` does
(60_exceptions R187). There is no return from an exception (60_exceptions R192). -/

namespace Sys2Proof.Machine

/-- The byte an address of a buffer holds, if any. -/
def Memory.read : Memory → Nat → Option Byte
  | [], _ => none
  | (k, v) :: m, a => if a = k then some v else Memory.read m a

/-- `MemWrite(base + a, 1, b)` (00_scope R14), in the canonical form. -/
def Memory.write (a : Nat) (b : Byte) : Memory → Memory
  | [] => [(a, b)]
  | (k, v) :: m =>
    if a < k then (a, b) :: (k, v) :: m
    else if a = k then (a, b) :: m
    else (k, v) :: Memory.write a b m

/-- `BUF[a] <- no value`. -/
def Memory.clear (a : Nat) : Memory → Memory
  | [] => []
  | (k, v) :: m => if a = k then Memory.clear a m else (k, v) :: Memory.clear a m

/-- Byte writes at ascending addresses from `a` (00_scope R14). -/
def Memory.writeFrom (a : Nat) : List Byte → Memory → Memory
  | [], m => m
  | b :: bs, m => Memory.writeFrom (a + 1) bs (m.write a b)

/-- `n` addresses from `a` on lose their value. -/
def Memory.clearFrom (a : Nat) : Nat → Memory → Memory
  | 0, m => m
  | n + 1, m => Memory.clearFrom (a + 1) n (m.clear a)

/-- The two loops of `ENC`, `DEC` and `SEND.RX`: the bytes at the start of a buffer of `size` bytes, no value in the rest
(41_encoder R122, 42_decoder R141, 43_session R163). -/
def Memory.fill (size : Nat) (bs : List Byte) (m : Memory) : Memory :=
  Memory.clearFrom bs.length (size - bs.length) (Memory.writeFrom 0 bs m)

/-- The canonical form: strictly rising addresses, all below `size`. -/
abbrev Memory.wf (size : Nat) (m : Memory) : Prop :=
  m.Pairwise (fun x y => x.1 < y.1) ∧ ∀ c ∈ m, c.1 < size

/-- How many bytes an address space has (10_state R39). -/
def Space.size : Space → Nat
  | .tx => Config.txMax
  | .rx => Config.rxMax

/-- The contents of an address space. -/
def State.mem (s : State) : Space → Memory
  | .tx => s.txBuf
  | .rx => s.rxBuf

/-- `MemRead(base + a, 1)` (00_scope R14): a byte that nothing has written is a fault (93 U4), and so is an address that
does not exist (10_state R39). -/
def State.readByte (s : State) (sp : Space) (a : Nat) : Except Fault Byte :=
  if a < sp.size then
    match (s.mem sp).read a with
    | some b => .ok b
    | none => .error (.noValue sp a)
  else .error (.noSuchAddress sp a)

/-- `n` single-byte reads at ascending addresses from `a` (00_scope R14). -/
def State.readBytes (s : State) (sp : Space) : Nat → Nat → Except Fault (List Byte)
  | _, 0 => .ok []
  | a, n + 1 =>
    match s.readByte sp a with
    | .error f => .error f
    | .ok b =>
      match s.readBytes sp (a + 1) n with
      | .error f => .error f
      | .ok bs => .ok (b :: bs)

/-- The frame, `TXBUF[0 .. TXLEN-1]`. -/
def State.frame (s : State) : Except Fault (List Byte) := s.readBytes .tx 0 s.txLen.toNat

/-- The response, `RXBUF[0 .. RXLEN-1]`. -/
def State.response (s : State) : Except Fault (List Byte) := s.readBytes .rx 0 s.rxLen.toNat

/-- `txfc`: `TXBUF[1]` if `TXLEN != 0`, else none (42_decoder R145). -/
def State.requestFc (s : State) : Except Fault (Option Byte) :=
  if s.txLen = 0 then .ok none
  else
    match s.readByte .tx 1 with
    | .error f => .error f
    | .ok b => .ok (some b)

/-- Returning a result to the host. -/
def State.pushResult (s : State) (r : HostResult) : State :=
  { s with results := s.results ++ [r] }

/-- `refused(reason)`: the block's state does not change, and the refusal stays with the run (00_scope R15, 60_exceptions
R188, log 4). -/
def State.refuse (s : State) (r : RefuseReason) : State :=
  s.pushResult (.refused r)

/-- One more event of the wire trace. -/
def State.logWire (s : State) (e : WireEvent) : State :=
  { s with wire := s.wire ++ [e] }

/-- Every host operation but `RESET` starts so: `if SESS == AWAIT: refused(BUSY)` (10_state R23). -/
def State.unlessBusy (s : State) (k : Host.Outcome State Fault Refusal) : Host.Outcome State Fault Refusal :=
  match s.sess with
  | .await => .next (s.refuse .busy)
  | .idle => k

/-- `TXBUF`, `TXLEN <- f` (41_encoder R122). -/
def State.putFrame (s : State) (f : List Byte) : State :=
  { s with
    txBuf := s.txBuf.fill Config.txMax f
    txLen := BitVec.ofNat 4 f.length }

/-- `RXBUF`, `RXLEN` and every result register from what `decode` returned (42_decoder R141, 43_session R163). -/
def State.putResponse (s : State) (r : ExchangeRecord) : State :=
  { s with
    rxBuf := s.rxBuf.fill Config.rxMax r.resp
    rxLen := BitVec.ofNat 4 r.resp.length
    success := r.success
    errKind := r.errKind
    vLen := r.vLen
    vCrc := r.vCrc
    vFc := r.vFc
    valid := r.valid }

/-- TAKING AN EXCEPTION: the writes of `raise <Kind>()`, all of them and no others (60_exceptions R187). -/
def State.raiseError (s : State) (k : ErrKind) : State :=
  { s with
    success := false
    errKind := k
    rxLen := 0
    rxBuf := s.rxBuf.fill Config.rxMax []
    vLen := false
    vCrc := false
    vFc := false
    valid := false }

/-- Every register of the block takes its reset value (10_state R40, 43_session R170). Nothing outside the block changes
(70_reset_and_hazards R211); a `SEND` under way is abandoned (log 16). -/
def State.resetBlock (s : State) : State :=
  { s with
    crc := State.reset.crc
    txBuf := State.reset.txBuf
    txLen := State.reset.txLen
    sess := State.reset.sess
    rxBuf := State.reset.rxBuf
    rxLen := State.reset.rxLen
    success := State.reset.success
    errKind := State.reset.errKind
    vLen := State.reset.vLen
    vCrc := State.reset.vCrc
    vFc := State.reset.vFc
    valid := State.reset.valid
    sendAccepted := State.reset.sendAccepted }

/-- The host has issued its next command. -/
def State.popCommand (s : State) : State :=
  { s with commands := s.commands.tail }

/-- What `ChanWrite` yields (00_scope R16). -/
inductive WriteOutcome where
  | written
  | ioerror
deriving DecidableEq, Repr

/-- The channel's answer to a write of `len` bytes, as the block takes it: a count short of the frame is what
`SHORT_WRITE_POLICY` says (43_session R162, log 7). DESIGN CHOICE: a count of MORE bytes than the frame, of which the spec
says nothing, is taken as written (log 24). -/
def writeOutcomeOf (p : ShortWritePolicy) (len : Nat) : WriteAnswer → WriteOutcome
  | .ioerror => .ioerror
  | .count n =>
    if len ≤ n then .written
    else
      match p with
      | .error => .ioerror
      | .accept => .written

/-- The channel's next answer to a write: the one the outside has placed, else a free value (43_session R165, log 5). -/
def State.writeAnswer (s : State) : WriteAnswer :=
  match s.writeAnswers with
  | [] => Config.freeWrite s.draws
  | a :: _ => a

/-- The answer to a write has been given. -/
def State.popWrite (s : State) : State :=
  { s with
    writeAnswers := s.writeAnswers.tail
    draws := if s.writeAnswers.isEmpty then s.draws + 1 else s.draws }

/-- What the block takes of the channel's bytes: at most `RX_MAX` of them (00_scope R16, 70_reset_and_hazards R225). The
model does not keep the tail (10_state R38, log 6). -/
def readCut (bs : List Byte) : List Byte := bs.take Config.rxMax

/-- An answer to a read as the block takes it: `ChanRead(8)` (00_scope R16). -/
def cutAnswer : ReadAnswer → ReadAnswer
  | .ioerror => .ioerror
  | .bytes r => .bytes (readCut r)

/-- The channel's next answer to `ChanRead(8)`: the one the outside has placed, else a free value (43_session R166, log 6). -/
def State.readAnswer (s : State) : ReadAnswer :=
  cutAnswer
    (match s.readAnswers with
     | [] => Config.freeRead s.draws
     | a :: _ => a)

/-- The answer to a read has been given. -/
def State.popRead (s : State) : State :=
  { s with
    readAnswers := s.readAnswers.tail
    draws := if s.readAnswers.isEmpty then s.draws + 1 else s.draws }

/-- What `ChanWrite(f)` yields now. -/
def State.writeOutcome (s : State) (f : List Byte) : WriteOutcome :=
  writeOutcomeOf s.shortWritePolicy f.length s.writeAnswer

/-- `ChanWrite(f)`: the bytes are handed to the channel, and the accepted `SEND` has done its write. -/
def State.chanWrite (s : State) (f : List Byte) : State :=
  { s.popWrite.logWire (.write f) with sendAccepted := false }

/-- An exchange ends with a channel error: `raise ChannelIO()`, `SESS <- IDLE`, and `SEND` returns a failed result
(43_session R162, R163). -/
def State.failExchange (s : State) : State :=
  { s.raiseError .channelIo with sess := .idle }.pushResult (.okExchange false [] .channelIo)

/-- The step `SEND.TX` with the frame `f` (43_session R162). -/
def State.sendTx (s : State) (f : List Byte) : State :=
  match s.writeOutcome f with
  | .written => { s.chanWrite f with sess := .await }
  | .ioerror => (s.chanWrite f).failExchange

/-- The step `SEND.RX` when the read answered bytes (43_session R163). -/
def State.sendRx (s : State) (r : List Byte) (txfc : Option Byte) : State :=
  { (s.logWire (.read (.bytes r))).putResponse (decodeExchange r txfc) with sess := .idle }.pushResult
    (.okExchange (successOf r) r (errKindOf r))

/-- The step `SEND.RX` when the read answered `ioerror` (43_session R163). -/
def State.sendRxError (s : State) : State :=
  (s.logWire (.read .ioerror)).failExchange

end Sys2Proof.Machine
end

