-- ==== Sys2Proof/Machine/CrcUnit.lean ====
section
/-! DEFINITION. The operations of the CRC unit (40_crc16). -/

namespace Sys2Proof.Machine

/-- `CRC.INIT` (R103). -/
def execCrcInit (s : State) : Host.Outcome State Fault Refusal :=
  s.unlessBusy (.next ({ s with crc := Config.crcInit }.pushResult .ok))

/-- `CRC.UPDATE byte` (R105). -/
def execCrcUpdate (byte : Byte) (s : State) : Host.Outcome State Fault Refusal :=
  s.unlessBusy (.next ({ s with crc := crcUpdate s.crc byte }.pushResult .ok))

/-- `CRC.READ` (R107). -/
def execCrcRead (s : State) : Host.Outcome State Fault Refusal :=
  s.unlessBusy (.next (s.pushResult (.okCrc s.crc (lo8 s.crc) (hi8 s.crc))))

end Sys2Proof.Machine
end

