-- ==== Sys2Proof/Machine/Decoder.lean ====
section
/-! DEFINITION. The frame decoder and validator (42_decoder). -/

namespace Sys2Proof.Machine

/-- `DEC [b0 ... b(n-1)]` (R141): `BAD_LEN` is checked before `BUSY`. With no bytes the writes are those of
`raise NoResponse()`. -/
def execDec (bytes : List Byte) (s : State) : Host.Outcome State Fault Refusal :=
  if Config.rxMax < bytes.length then .next (s.refuse .badLen)
  else
    s.unlessBusy
      (match s.requestFc with
       | .error f => .fault f
       | .ok txfc =>
         .next ((s.putResponse (decodeExchange bytes txfc)).pushResult
           (.okExchange (successOf bytes) bytes (errKindOf bytes))))

end Sys2Proof.Machine
end

