-- ==== Sys2Proof/Machine/Operands.lean ====
section
/-! DEFINITION. Operand assembly of the request frames (30_encoding R80 to R84) and the function `encode` (41_encoder R123). -/

namespace Sys2Proof.Machine

/-- The data type of the `dtype` port bit: 0 is U16, 1 is every other tag (30_encoding R85, R88). -/
def dtypeOfBit (b : Bool) : DType := if b then .u32 else .u16

/-- The `dtype` port bit of a data type (30_encoding R85). -/
def bitOfDType : DType → BitVec 1
  | .u16 => 0
  | .u32 => 1

/-- Frame byte 1 (30_encoding R81). -/
def functionCode : DType → Byte
  | .u16 => Config.fcU16
  | .u32 => Config.fcU32

/-- The whole frame's length (41_encoder R124). -/
def frameLength : DType → Nat
  | .u16 => Config.lenU16
  | .u32 => Config.lenU32

/-- The value field: truncated to the declared width and split big-endian (30_encoding R83). -/
def valueBytes : DType → ValueWord → List Byte
  | .u16, v => be16 (v.setWidth 16)
  | .u32, v => be32 v

/-- Every byte of a frame before its CRC (41_encoder R123). -/
def frameBody (unit index subIndex : Byte) (dtype : DType) (value : ValueWord) : List Byte :=
  [unit, functionCode dtype, index, subIndex] ++ valueBytes dtype value

/-- A body with its CRC appended, low byte first (30_encoding R84). -/
def withCrc (body : List Byte) : List Byte :=
  body ++ le16 (crc16 body)

/-- The function `encode(unit, index, subIndex, dtype, value)` (41_encoder R123). -/
def encodeFrame (unit index subIndex : Byte) (dtype : DType) (value : ValueWord) : List Byte :=
  withCrc (frameBody unit index subIndex dtype value)

/-- The eight bytes of a `WR16` frame, its CRC bytes as given (30_encoding R76). -/
def request16 (unit index subIndex : Byte) (value : Word16) (crcLow crcHigh : Byte) : List Byte :=
  [unit, Config.fcU16, index, subIndex] ++ be16 value ++ [crcLow, crcHigh]

/-- The ten bytes of a `WR32` frame, its CRC bytes as given (30_encoding R77). -/
def request32 (unit index subIndex : Byte) (value : Word32) (crcLow crcHigh : Byte) : List Byte :=
  [unit, Config.fcU32, index, subIndex] ++ be32 value ++ [crcLow, crcHigh]

end Sys2Proof.Machine
end

