-- ==== Sys2Proof/Machine/Encoder.lean ====
section
/-! DEFINITION. The frame encoder (41_encoder). -/

namespace Sys2Proof.Machine

/-- `ENC unit, index, subIndex, dtype, value` (R122). -/
def execEnc (unit index subIndex : Byte) (dtype : DType) (value : ValueWord) (s : State) :
    Host.Outcome State Fault Refusal :=
  s.unlessBusy (.next ((s.putFrame (encodeFrame unit index subIndex dtype value)).pushResult
    (.okFrame (encodeFrame unit index subIndex dtype value))))

end Sys2Proof.Machine
end

