-- ==== Sys2Proof/Machine/Session.lean ====
section
/-! DEFINITION. The exchange sequencer: `SEND` and `RESET` (43_session). -/

namespace Sys2Proof.Machine

/-- `SEND` (R161): refused, or accepted. The block then performs its steps `SEND.TX` (the request frame in `TXBUF` runs) and
`SEND.RX` (the response runs), and the result is returned when the exchange ends (log 2). -/
def execSend (s : State) : Host.Outcome State Fault Refusal :=
  s.unlessBusy
    (if s.txLen = 0 then .next (s.refuse .noFrame)
     else .next { s with sendAccepted := true })

/-- `RESET` (R170): accepted in every state. -/
def execReset (s : State) : Host.Outcome State Fault Refusal :=
  .next (s.resetBlock.pushResult .ok)

end Sys2Proof.Machine
end

