-- ==== Sys2Proof/Machine/Wire.lean ====
section
/-! DEFINITION. The wire frame set: the request frames, run by the step `SEND.TX`, and the response, run by the step
`SEND.RX` (43_session R162, R163, log 11). -/

namespace Sys2Proof.Machine

/-- A request frame goes out: the step `SEND.TX`, where it is enabled (43_session R162). -/
def emitRequest (f : List Byte) (s : State) : Host.Outcome State Fault Refusal :=
  match s.sess, s.sendAccepted with
  | .idle, true => .next (s.sendTx f)
  | _, _ => .refused .sendTxNotEnabled

/-- `WR16` (30_encoding R76, 41_encoder R129): these bytes are handed to the channel, and nothing is said of the drive. -/
def execWr16 (unit index subIndex : Byte) (value : Word16) (crcLow crcHigh : Byte) (s : State) :
    Host.Outcome State Fault Refusal :=
  emitRequest (request16 unit index subIndex value crcLow crcHigh) s

/-- `WR32` (30_encoding R77, 41_encoder R130): these bytes are handed to the channel, and nothing is said of the drive. -/
def execWr32 (unit index subIndex : Byte) (value : Word32) (crcLow crcHigh : Byte) (s : State) :
    Host.Outcome State Fault Refusal :=
  emitRequest (request32 unit index subIndex value crcLow crcHigh) s

/-- `RESP` (30_encoding R79, 42_decoder R147): the step `SEND.RX` on a read that answered these bytes, where it is enabled
(43_session R163). Of more than 8 bytes the one read takes the first 8 (42_decoder R149, log 21). -/
def execResp (bytes : List Byte) (s : State) : Host.Outcome State Fault Refusal :=
  match s.sess with
  | .idle => .refused .sendRxNotEnabled
  | .await =>
    match s.requestFc with
    | .error f => .fault f
    | .ok txfc => .next (s.sendRx (readCut bytes) txfc)

end Sys2Proof.Machine
end

