-- ==== Sys2Proof/Machine/Dispatch.lean ====
section
/-! DEFINITION. One arm per constructor of Instr, each one direct call of its meaning. -/

namespace Sys2Proof.Machine

def exec (i : Instr) (s : State) : Host.Outcome State Fault Refusal :=
  match i with
  | .crcInit => Sys2Proof.Machine.execCrcInit s
  | .crcUpdate byte => Sys2Proof.Machine.execCrcUpdate byte s
  | .crcRead => Sys2Proof.Machine.execCrcRead s
  | .enc unit index subIndex dtype value => Sys2Proof.Machine.execEnc unit index subIndex dtype value s
  | .send => Sys2Proof.Machine.execSend s
  | .dec bytes => Sys2Proof.Machine.execDec bytes s
  | .reset => Sys2Proof.Machine.execReset s
  | .wr16 unit index subIndex value crcLow crcHigh => Sys2Proof.Machine.execWr16 unit index subIndex value crcLow crcHigh s
  | .wr32 unit index subIndex value crcLow crcHigh => Sys2Proof.Machine.execWr32 unit index subIndex value crcLow crcHigh s
  | .resp bytes => Sys2Proof.Machine.execResp bytes s

end Sys2Proof.Machine
end

