-- ==== Sys2Proof/WellFormed.lean ====
section
/-! DEFINITION. Which terms of `Instr` are instructions the spec has: at most 8 bytes in `DEC` and `RESP` (30_encoding R85,
R79), and the CRC of its own bytes in a request frame (R76, R77, R84). -/

namespace Sys2Proof

open Machine in
/-- The check, as a function that can be run. -/
def Instr.wf : Instr → Bool
  | .crcInit | .crcUpdate _ | .crcRead | .enc _ _ _ _ _ | .send | .reset => true
  | .dec bs => decide (bs.length ≤ Config.rxMax)
  | .wr16 u i x v lo hi => decide ([lo, hi] = le16 (crc16 ([u, Config.fcU16, i, x] ++ be16 v)))
  | .wr32 u i x v lo hi => decide ([lo, hi] = le16 (crc16 ([u, Config.fcU32, i, x] ++ be32 v)))
  | .resp bs => decide (bs.length ≤ Config.rxMax)

/-- A well-formed instruction. -/
abbrev Instr.WellFormed (i : Instr) : Prop := i.wf = true

end Sys2Proof
end

