-- ==== Sys2Proof/Decode.lean ====
section
/-! DEFINITION. Decoding and encoding at the three ports: host command words (30_encoding R85 to R87), request frames
(R76 to R78), responses (R79); the rows of the opcode table; the host's `decodeTableWord`. -/

namespace Sys2Proof

open Machine

/-- What a port carries: a host command `CW` with its `RAW` (30_encoding R85), the bytes of a request frame (R76, R77), the
bytes of a response (R79). -/
inductive Encoded where
  | command (cw raw : Word64)
  | request (bytes : List Byte)
  | response (bytes : List Byte)
deriving DecidableEq, Repr

/-- Why a port's words are no instruction. -/
inductive DecodeError where
  /-- A host command the block declines: `BAD_OP` or `BAD_LEN` (30_encoding R87). -/
  | refused (r : RefuseReason)
  /-- Bytes that are neither a `WR16` nor a `WR32` frame (30_encoding R78, R88). -/
  | notARequest
  /-- A response longer than one read can be (30_encoding R79). -/
  | responseTooLong
deriving DecidableEq, Repr

/-- Decoding a command word: the operation code, then the must-be-zero bits, then `len` (30_encoding R86). -/
def decodeCommand (cw raw : Word64) : Except RefuseReason Instr :=
  match (cw.extractLsb' 60 4).toNat with
  | 1 => if cw.extractLsb' 0 60 = 0 then .ok .crcInit else .error .badOp
  | 2 => if cw.extractLsb' 0 52 = 0 then .ok (.crcUpdate (cw.extractLsb' 52 8)) else .error .badOp
  | 3 => if cw.extractLsb' 0 60 = 0 then .ok .crcRead else .error .badOp
  | 4 =>
    if cw.extractLsb' 33 3 = 0 then
      .ok (.enc (cw.extractLsb' 52 8) (cw.extractLsb' 44 8) (cw.extractLsb' 36 8)
        (dtypeOfBit (cw.getLsbD 32)) (cw.extractLsb' 0 Config.valueWidth))
    else .error .badOp
  | 5 => if cw.extractLsb' 0 60 = 0 then .ok .send else .error .badOp
  | 6 =>
    if cw.extractLsb' 0 56 = 0 then
      if (cw.extractLsb' 56 4).toNat ≤ Config.rxMax then
        .ok (.dec (rawBytes (cw.extractLsb' 56 4).toNat raw))
      else .error .badLen
    else .error .badOp
  | 7 => if cw.extractLsb' 0 60 = 0 then .ok .reset else .error .badOp
  | _ => .error .badOp

/-- Reading a request frame: its length and its byte 1 tell the format (30_encoding R78). The CRC bytes are taken as they
are. -/
def decodeRequest (f : List Byte) : Except DecodeError Instr :=
  if f.length = frameLength .u16 then
    match f with
    | [u, fc, i, x, v1, v0, lo, hi] =>
      if fc = functionCode .u16 then .ok (.wr16 u i x (ofBe16 v1 v0) lo hi) else .error .notARequest
    | _ => .error .notARequest
  else if f.length = frameLength .u32 then
    match f with
    | [u, fc, i, x, v3, v2, v1, v0, lo, hi] =>
      if fc = functionCode .u32 then .ok (.wr32 u i x (ofBe32 v3 v2 v1 v0) lo hi) else .error .notARequest
    | _ => .error .notARequest
  else .error .notARequest

/-- Reading a response: every byte string of 0 to 8 bytes is one (30_encoding R79, R89). -/
def decodeResponse (bs : List Byte) : Except DecodeError Instr :=
  if bs.length ≤ Config.rxMax then .ok (.resp bs) else .error .responseTooLong

/-- Decoding, at each port. -/
def decode : Encoded → Except DecodeError Instr
  | .command cw raw =>
    match decodeCommand cw raw with
    | .ok i => .ok i
    | .error r => .error (.refused r)
  | .request bs => decodeRequest bs
  | .response bs => decodeResponse bs

/-- The command word with an operation code and nothing else set: `CW[63:60] = op` (30_encoding R85). -/
def opWord (op : BitVec 4) : Word64 := fieldAt 64 60 op

/-- The words of an instruction at its port (30_encoding R76, R77, R79, R85). -/
def encode : Instr → Encoded
  | .crcInit => .command (opWord 0x1) 0
  | .crcUpdate b => .command (opWord 0x2 ||| fieldAt 64 52 b) 0
  | .crcRead => .command (opWord 0x3) 0
  | .enc u i x d v =>
    .command (opWord 0x4 ||| fieldAt 64 52 u ||| fieldAt 64 44 i ||| fieldAt 64 36 x |||
      fieldAt 64 32 (bitOfDType d) ||| fieldAt 64 0 v) 0
  | .send => .command (opWord 0x5) 0
  | .dec bs => .command (opWord 0x6 ||| fieldAt 64 56 (BitVec.ofNat 4 bs.length)) (packRaw bs)
  | .reset => .command (opWord 0x7) 0
  | .wr16 u i x v lo hi => .request (request16 u i x v lo hi)
  | .wr32 u i x v lo hi => .request (request32 u i x v lo hi)
  | .resp bs => .response bs

/-- A row of the opcode table, as its `mask` and `match` give it. -/
structure Row where
  mnemonic : String
  mask : Nat
  pattern : Nat
deriving DecidableEq, Repr

/-- The rows of the host commands, in the table's order. -/
def hostRows : List Row :=
  [⟨"CRC.INIT", 0xFFFFFFFFFFFFFFFF, 0x1000000000000000⟩,
   ⟨"CRC.UPDATE", 0xF00FFFFFFFFFFFFF, 0x2000000000000000⟩,
   ⟨"CRC.READ", 0xFFFFFFFFFFFFFFFF, 0x3000000000000000⟩,
   ⟨"ENC", 0xF000000E00000000, 0x4000000000000000⟩,
   ⟨"SEND", 0xFFFFFFFFFFFFFFFF, 0x5000000000000000⟩,
   ⟨"DEC", 0xF0FFFFFFFFFFFFFF, 0x6000000000000000⟩,
   ⟨"RESET", 0xFFFFFFFFFFFFFFFF, 0x7000000000000000⟩]

/-- Whether a command word matches a row. -/
def Row.covers (r : Row) (cw : Word64) : Bool :=
  cw &&& BitVec.ofNat 64 r.mask == BitVec.ofNat 64 r.pattern

/-- Bits of a host command word (30_encoding R85). -/
abbrev commandBits : Nat := 64

/-- The instruction the host's table numbering names: `w` is a row's bits as ONE number, and the port is told from the
width and the bits. The width of a `WR32` frame is one. The width of a host command is a host command if some row of the
host commands covers the bits, a `WR16` frame if they read as one and no such row does, and a response otherwise. Fewer
bits, a whole number of bytes, are a response. The ports are separate in the machine: this function alone must choose
(log 12). `RAW` is 0. -/
def decodeTableWord (nbits w : Nat) : Option Instr :=
  if nbits = 8 * frameLength .u32 then (decodeRequest (bytesOfNat (nbits / 8) w)).toOption
  else if nbits = commandBits then
    match decodeCommand (BitVec.ofNat commandBits w) 0 with
    | .ok i => some i
    | .error .badOp =>
      match decodeRequest (bytesOfNat (nbits / 8) w) with
      | .ok i => some i
      | .error _ => (decodeResponse (bytesOfNat (nbits / 8) w)).toOption
    | .error _ => none
  else if nbits % 8 = 0 ∧ nbits < commandBits then (decodeResponse (bytesOfNat (nbits / 8) w)).toOption
  else none

end Sys2Proof
end

