-- ==== Sys2Proof/Machine/Fetch.lean ====
section
/-! DEFINITION. What the machine does next, and where it fetches it: the host's command queue, the request frame in `TXBUF`,
the channel's answer to the read. There is no program counter (10_state R23). -/

namespace Sys2Proof.Machine

/-- Who moves next. -/
inductive Turn where
  /-- Nobody: the host has issued nothing (log 15). -/
  | rest
  /-- The host issues a command. -/
  | command (c : Command)
  /-- The block's step `SEND.TX`. -/
  | sendTx
  /-- The block's step `SEND.RX`. -/
  | sendRx
deriving DecidableEq, Repr

/-- Who moves next, from plain data. A host inside `SEND` issues nothing unless its next command is `early` (log 3). -/
def State.turn (s : State) : Turn :=
  match s.sess with
  | .await =>
    match s.commands with
    | [] => .sendRx
    | c :: _ => if c.early then .command c else .sendRx
  | .idle =>
    if s.sendAccepted then .sendTx
    else
      match s.commands with
      | [] => .rest
      | c :: _ => .command c

/-- What a fetch gives: an instruction to run in a state, a step that is over without one, or a fault. -/
inductive Fetched where
  | run (i : Instr) (s : State)
  | done (s : State)
  | fault (f : Fault)
deriving DecidableEq, Repr

/-- The host's command is taken from the queue and decoded; a word that is no command is refused (30_encoding R86, R87). -/
def State.fetchCommand (s : State) (c : Command) : Fetched :=
  match decodeCommand c.cw c.raw with
  | .ok i => .run i s.popCommand
  | .error r => .done (s.popCommand.refuse r)

/-- `SEND.TX` takes the frame `TXBUF[0 .. TXLEN-1]` (43_session R162). Bytes that are no request frame, which no run
leaves there (10_state R41 (b)), are handed over all the same (log 17). -/
def State.fetchRequest (s : State) : Fetched :=
  match s.frame with
  | .error f => .fault f
  | .ok f =>
    match decodeRequest f with
    | .ok i => .run i s
    | .error _ => .done (s.sendTx f)

/-- `SEND.RX` takes the channel's answer (43_session R163). -/
def State.fetchResponse (s : State) : Fetched :=
  match s.readAnswer with
  | .ioerror => .done s.popRead.sendRxError
  | .bytes r => .run (.resp r) s.popRead

/-- The next thing to happen. -/
def State.fetch (s : State) : Fetched :=
  match s.turn with
  | .rest => .done s
  | .command c => s.fetchCommand c
  | .sendTx => s.fetchRequest
  | .sendRx => s.fetchResponse

/-- `s` with a command at the head of the host's queue, to be issued now whatever `SESS` is. -/
def State.placeCommand (s : State) (cw raw : Word64) : State :=
  { s with
    commands := ⟨cw, raw, true⟩ :: s.commands
    sendAccepted := false }

/-- `s` with a request frame in `TXBUF` and a `SEND` accepted for it. -/
def State.placeRequest (s : State) (f : List Byte) : State :=
  { s.putFrame f with
    sess := .idle
    sendAccepted := true }

/-- `s` with a read owed that the channel answers with these bytes, and a host that waits for it. -/
def State.placeResponse (s : State) (bs : List Byte) : State :=
  { s with
    sess := .await
    readAnswers := .bytes bs :: s.readAnswers
    commands := s.commands.map fun c => { c with early := false } }

/-- `s` with an instruction where the next step fetches it. -/
def State.place (s : State) (i : Instr) : State :=
  match encode i with
  | .command cw raw => s.placeCommand cw raw
  | .request f => s.placeRequest f
  | .response bs => s.placeResponse bs

/-- The body of `withFetchWord`: the row's instruction at its port, or, for a word that is none, that word as the host's
next command. -/
def State.placeWord (s : State) (nbits w : Nat) : State :=
  match decodeTableWord nbits w with
  | some i => s.place i
  | none => s.placeCommand (BitVec.ofNat 64 w) 0

end Sys2Proof.Machine
end

