-- ==== Sys2Proof/Machine/HostSide.lean ====
section
/-! DEFINITION. What the spec says of the host on the way to the block: the value and data type operands (41_encoder R128,
30_encoding R88), the error kinds that never reach the block (60_exceptions R181, R183, R184), and the pseudo-operations
(30_encoding R91). -/

namespace Sys2Proof.Machine

/-- The fields of a register descriptor that reach the encoder (41_encoder R121). -/
structure Descriptor where
  index : Byte
  subIndex : Byte
  dtype : DType
deriving DecidableEq, Repr

/-- The source's taxonomy of errors (60_exceptions R181). -/
inductive ErrorName where
  | dictionaryLoad
  | unknownRegister
  | channelIo
  | noResponse
deriving DecidableEq, Repr

/-- The `ERRKIND` code of an error: the first two never reach the block (60_exceptions R181). -/
def ErrorName.errKind : ErrorName → Option ErrKind
  | .dictionaryLoad => none
  | .unknownRegister => none
  | .channelIo => some .channelIo
  | .noResponse => some .noResponse

/-- Why the host issues nothing for a `CMD`. -/
inductive HostStop where
  /-- The lookup missed (60_exceptions R184). -/
  | unknownRegister
  /-- The value is negative and `NEG_POLICY` is `refuse` (41_encoder R128, 93 U5). -/
  | negativeValue
deriving DecidableEq, Repr

/-- The data type of a dictionary tag: `"U16"`, or any other tag (30_encoding R88, 90_conflicts C3). -/
def dtypeOfTag (tag : String) : DType := if tag = "U16" then .u16 else .u32

/-- What the host presents on the value port for the integer `n` (41_encoder R128). -/
def presentValue (p : NegPolicy) (n : Int) : Option ValueWord :=
  if 0 ≤ n then some (BitVec.ofNat Config.valueWidth n.toNat)
  else
    match p with
    | .refuse => none
    | .wrap => some (BitVec.ofInt Config.valueWidth n)

/-- `CRC16 [b0 ... b(k-1)]` (30_encoding R91). -/
def expandCrc16 (bs : List Byte) : List Instr :=
  .crcInit :: bs.map .crcUpdate ++ [.crcRead]

/-- `XCHG unit, index, subIndex, dtype, value` (30_encoding R91). -/
def expandXchg (unit index subIndex : Byte) (dtype : DType) (value : ValueWord) : List Instr :=
  [.enc unit index subIndex dtype value, .send]

/-- `CMD name, value`, from what the host's lookup of the name gave, under the host's `NEG_POLICY` (30_encoding R91,
00_scope R8, log 8). -/
def expandCmd (p : NegPolicy) (found : Option Descriptor) (n : Int) : Except HostStop (List Instr) :=
  match found with
  | none => .error .unknownRegister
  | some d =>
    match presentValue p n with
    | none => .error .negativeValue
    | some v => .ok (expandXchg Config.unitDefault d.index d.subIndex d.dtype v)

/-- A host that blocks issues these instructions after those it has yet to issue; a wire frame is no host command. -/
def State.issue (s : State) (is : List Instr) : State :=
  { s with
    commands := s.commands ++ is.filterMap fun i =>
      match encode i with
      | .command cw raw => some ⟨cw, raw, false⟩
      | _ => none }

end Sys2Proof.Machine
end

