-- ==== Sys2Proof/Machine/Ports.lean ====
section
/-! DEFINITION. The host's read ports (10_state R37, 20_memory R59) and the views over the response (42_decoder R147).
Reading has no side effect; what holds no value faults (93 U4). `STATUS` is in Machine/Flags.lean. -/

namespace Sys2Proof.Machine

/-- The read port of `CRC`. -/
def State.portCrc (s : State) : Word16 := s.crc

/-- The read port of `TXBUF[i]`. -/
def State.portTx (s : State) (i : Nat) : Except Fault Byte := s.readByte .tx i

/-- The read port of `RXBUF[i]`. -/
def State.portRx (s : State) (i : Nat) : Except Fault Byte := s.readByte .rx i

/-- `R_UNIT`, defined when `n >= 1`. -/
def State.rUnit (s : State) : Except Fault Byte :=
  if 1 ≤ s.rxLen.toNat then s.readByte .rx 0 else .error (.noValue .rx 0)

/-- `R_FC`, defined when `n >= 2`. -/
def State.rFc (s : State) : Except Fault Byte :=
  if 2 ≤ s.rxLen.toNat then s.readByte .rx 1 else .error (.noValue .rx 1)

/-- `R_DATA`, `RXBUF[2 .. n-3]`, defined when `n >= 4`. -/
def State.rData (s : State) : Except Fault (List Byte) :=
  if 4 ≤ s.rxLen.toNat then s.readBytes .rx 2 (s.rxLen.toNat - 4) else .error (.noValue .rx 2)

/-- `R_CRC`, `RXBUF[n-2] + 256 * RXBUF[n-1]`, defined when `n >= 4`. -/
def State.rCrc (s : State) : Except Fault Word16 :=
  if 4 ≤ s.rxLen.toNat then
    match s.readByte .rx (s.rxLen.toNat - 2), s.readByte .rx (s.rxLen.toNat - 1) with
    | .ok lo, .ok hi => .ok (ofLe16 lo hi)
    | .error f, _ => .error f
    | _, .error f => .error f
  else .error (.noValue .rx 2)

end Sys2Proof.Machine
end

