-- ==== Sys2Proof/Safety.lean ====
section
/-! DEFINITION. The invariants of every reachable state (10_state R41), the start premises (70_reset_and_hazards R233), the
channel's next answer, the end of a run and its refusal mark (R235). -/

namespace Sys2Proof.Machine

/-- A buffer holds exactly the bytes below its length, in the canonical form (10_state R22, R24). -/
structure Memory.Holds (size : Nat) (m : Memory) (len : Nat) : Prop where
  wf : m.wf size
  bound : len ≤ size
  listed : ∀ a, (m.read a).isSome ↔ a < len

/-- The invariants of 10_state R41, and of the registers nothing else: that a buffer is in its canonical form says only that
the list is one of its array's. R41 (h) is the type of `ERRKIND`. -/
structure State.InvR41 (s : State) : Prop where
  /-- `TXBUF` is an array of `TX_MAX` bytes -/
  txWf : s.txBuf.wf Config.txMax
  /-- `RXBUF` is an array of `RX_MAX` bytes -/
  rxWf : s.rxBuf.wf Config.rxMax
  /-- (a) -/
  txLen : s.txLen.toNat = 0 ∨ s.txLen.toNat = frameLength .u16 ∨ s.txLen.toNat = frameLength .u32
  /-- (b) -/
  txFc16 : s.txLen.toNat = frameLength .u16 → s.txBuf.read 1 = some (functionCode .u16)
  /-- (b) -/
  txFc32 : s.txLen.toNat = frameLength .u32 → s.txBuf.read 1 = some (functionCode .u32)
  /-- (c) -/
  txCrc : s.txLen ≠ 0 → ∃ f, s.frame = .ok f ∧
    le16 (crc16 (f.take (f.length - 2))) = f.drop (f.length - 2) ∧ crc16 f = 0
  /-- (d) -/
  rxLen : s.rxLen.toNat ≤ Config.rxMax
  /-- (e) -/
  success : s.success = true → 0 < s.rxLen.toNat ∧ s.errKind = .noError
  /-- (f) -/
  errKind : s.errKind ≠ .noError → s.success = false ∧ s.rxLen.toNat = 0
  /-- (g) -/
  valid : s.valid = (s.vLen && s.vCrc && s.vFc)
  /-- (g) -/
  vCrc : s.vCrc = true → s.vLen = true
  /-- (g) -/
  flags : s.vLen = true ∨ s.vCrc = true ∨ s.vFc = true ∨ s.valid = true → s.success = true
  /-- (i) -/
  await : s.sess = .await → s.txLen ≠ 0

/-- A `SEND` is accepted only when `IDLE` and with a frame (43_session R161, log 2). -/
def State.AcceptedWithFrame (s : State) : Prop :=
  s.sendAccepted = true → s.sess = .idle ∧ s.txLen ≠ 0

/-- What holds in every reachable state: 10_state R41; that each buffer holds exactly the bytes below its length (R22, R24);
that a stored response is a success (R24, R30); and the model's own rule on `sendAccepted`. -/
structure State.Inv (s : State) : Prop extends State.InvR41 s where
  /-- R22 -/
  txHolds : s.txBuf.Holds Config.txMax s.txLen.toNat
  /-- R24 -/
  rxHolds : s.rxBuf.Holds Config.rxMax s.rxLen.toNat
  /-- R24, R30 -/
  nonEmpty : 0 < s.rxLen.toNat → s.success = true
  /-- log 2 -/
  accepted : s.AcceptedWithFrame

/-- `CleanStart` (R233): the block is in the reset state. -/
def State.CleanStart (s : State) : Prop := s.resetBlock = s

/-- `IdleStart` (R233): `SESS` is `IDLE` with the invariants of 10_state R41, and otherwise arbitrary registers; the host is in
no `SEND` (log 2). -/
structure State.IdleStart (s : State) : Prop where
  idle : s.sess = .idle
  free : s.sendAccepted = false
  inv : s.InvR41

/-- The channel's next answer to a write is `a`, placed or free, and it leaves these placed answers and this number of
draws (log 5). -/
def State.NextWrite (s : State) (a : WriteAnswer) (as : List WriteAnswer) (d : Nat) : Prop :=
  s.writeAnswers = a :: as ∧ d = s.draws ∨
    s.writeAnswers = [] ∧ as = [] ∧ a = Config.freeWrite s.draws ∧ d = s.draws + 1

/-- The channel's next answer to a read is `a`, placed or free, not yet cut to 8 bytes, and it leaves these placed answers
and this number of draws (log 6). -/
def State.NextRead (s : State) (a : ReadAnswer) (as : List ReadAnswer) (d : Nat) : Prop :=
  s.readAnswers = a :: as ∧ d = s.draws ∨
    s.readAnswers = [] ∧ as = [] ∧ a = Config.freeRead s.draws ∧ d = s.draws + 1

/-- An answer that `SEND.TX` takes as written, of a write of `len` bytes under a policy (43_session R162, log 7 and 24). -/
def TakenAsWritten (p : ShortWritePolicy) (len : Nat) (a : WriteAnswer) : Prop :=
  ∃ n, a = .count n ∧ (len ≤ n ∨ p = .accept)

/-- An answer that `SEND.TX` takes as an error, of a write of `len` bytes under a policy (43_session R162, log 7). -/
def TakenAsError (p : ShortWritePolicy) (len : Nat) (a : WriteAnswer) : Prop :=
  a = .ioerror ∨ ∃ n, a = .count n ∧ n < len ∧ p = .error

/-- The run is over (R235): the last command has returned and `SESS` is `IDLE`. -/
def State.Final (s : State) : Prop :=
  s.commands = [] ∧ s.sess = .idle ∧ s.sendAccepted = false

/-- The refusal mark of the run (60_exceptions R188, 70_reset_and_hazards R235). -/
def State.Marked (s : State) : Prop := ∃ r, HostResult.refused r ∈ s.results

end Sys2Proof.Machine
end

