-- ==== Sys2Proof/Certificates/Slice0/Obligations.lean ====
section
/-! DEFINITION. The statements for the provers. Each docstring names the rules of spec/ it formalises. -/

open Sys2Proof Sys2Proof.Machine

/-! ### Decoding, encoding, fetching -/

/-- Decoding an encoded well-formed instruction gives it back, for all ten instructions and every operand value
(30_encoding R76, R77, R79, R85). -/
def Obligations.DecodeEncodeRoundTrip : Prop :=
  ∀ i : Instr, i.WellFormed → decode (encode i) = .ok i

/-- A command word that decodes has one meaning: the instruction is well-formed, its own encoding has that command word,
and whatever `RAW` it carries decodes to the same instruction (30_encoding R85). -/
def Obligations.CommandWordDetermined : Prop :=
  ∀ (cw raw : Word64) (i : Instr), decodeCommand cw raw = .ok i →
    i.WellFormed ∧ ∃ raw', encode i = .command cw raw' ∧ decodeCommand cw raw' = .ok i

/-- Exactly the words that no row of the opcode table covers are `BAD_OP` (30_encoding section 7). -/
def Obligations.BadOpIsNoTableRow : Prop :=
  ∀ cw raw : Word64, decodeCommand cw raw = .error .badOp ↔ ∀ r ∈ hostRows, r.covers cw = false

/-- Which command words are declined and under which name: reserved codes and non-zero must-be-zero bits, and `DEC` with
`len` from 9 to 15 once its must-be-zero bits are zero (30_encoding section 5). -/
def Obligations.DeclinedCommandWords : Prop :=
  ∀ cw raw : Word64,
    (decodeCommand cw raw = .error .badOp ↔
      (cw.extractLsb' 60 4 = 0 ∨ 8 ≤ (cw.extractLsb' 60 4).toNat) ∨
      (cw.extractLsb' 60 4 ∈ [1, 3, 5, 7] ∧ cw.extractLsb' 0 60 ≠ 0) ∨
      (cw.extractLsb' 60 4 = 2 ∧ cw.extractLsb' 0 52 ≠ 0) ∨
      (cw.extractLsb' 60 4 = 4 ∧ cw.extractLsb' 33 3 ≠ 0) ∨
      (cw.extractLsb' 60 4 = 6 ∧ cw.extractLsb' 0 56 ≠ 0)) ∧
    (decodeCommand cw raw = .error .badLen ↔
      cw.extractLsb' 60 4 = 6 ∧ cw.extractLsb' 0 56 = 0 ∧ 9 ≤ (cw.extractLsb' 56 4).toNat) ∧
    decodeCommand cw raw ≠ .error .busy ∧ decodeCommand cw raw ≠ .error .noFrame

/-- Words written out from the spec's encoding tables decode to the instructions they stand for (30_encoding R76, R77, R79,
R85). -/
def Obligations.SpecWordsDecode : Prop :=
  decode (.command 0x2010000000000000 0) = .ok (.crcUpdate 0x01) ∧
  decode (.command 0x401607A1000186A0 0) = .ok (.enc 0x01 0x60 0x7A .u32 100000) ∧
  decode (.command 0x5000000000000000 0) = .ok .send ∧
  decode (.command 0x6400000000000000 0x0106802200000000) = .ok (.dec [0x01, 0x06, 0x80, 0x22]) ∧
  decode (.command 0x7000000000000000 0) = .ok .reset ∧
  decode (.request [0x01, 0x06, 0x03, 0x0D, 0x13, 0x88, 0x15, 0x1B]) =
    .ok (.wr16 0x01 0x03 0x0D 5000 0x15 0x1B) ∧
  decode (.request [0x01, 0x03, 0x12, 0x34, 0x12, 0x34, 0x56, 0x78, 0x7B, 0x45]) =
    .ok (.wr32 0x01 0x12 0x34 0x12345678 0x7B 0x45) ∧
  decode (.response [0xAA]) = .ok (.resp [0xAA])

/-- When the host may issue its next command, a step takes it from the queue and runs the instruction it decodes to
(30_encoding R86; the queue and the `early` bit are the model's, log 1 and 3). -/
def Obligations.StepRunsHostCommand : Prop :=
  ∀ (s : State) (c : Command) (cs : List Command) (i : Instr), s.commands = c :: cs →
    (s.sess = .idle ∧ s.sendAccepted = false ∨ s.sess = .await ∧ c.early = true) →
    decodeCommand c.cw c.raw = .ok i →
    step s = exec i { s with commands := cs }

/-- When a `SEND` has been accepted, a step reads `TXBUF[0 .. TXLEN-1]` and runs the request frame those bytes decode to
(43_session R162; the fetch of a frame as an instruction is the model's, log 11). -/
def Obligations.StepRunsRequestFrame : Prop :=
  ∀ (s : State) (f : List Byte) (i : Instr), s.sess = .idle → s.sendAccepted = true →
    s.frame = .ok f → decodeRequest f = .ok i → step s = exec i s

/-- While the read is owed and the host waits, a step takes the channel's answer and runs it as a response, of at most 8
bytes (43_session R163; the fetch of an answer as an instruction is the model's, log 11). -/
def Obligations.StepRunsResponse : Prop :=
  ∀ (s : State) (r : List Byte) (as : List ReadAnswer) (d : Nat), s.sess = .await →
    (∀ c cs, s.commands = c :: cs → c.early = false) → s.NextRead (.bytes r) as d →
    step s = exec (.resp (r.take 8)) { s with readAnswers := as, draws := d }

/-- A word placed where the next step fetches runs there as the instruction it decodes to, from every state, and at all
three ports (log 1 and 12). -/
def Obligations.PlacedWordRuns : Prop :=
  ∀ (s : State) (nbits w : Nat) (i : Instr), decodeTableWord nbits w = some i →
    step (s.withFetchWord nbits w) =
      exec i
        (match encode i with
         | .command _ _ => (s.withFetchWord nbits w).popCommand
         | .request _ => s.withFetchWord nbits w
         | .response _ => (s.withFetchWord nbits w).popRead)

/-! ### Reset -/

/-- The value of every register after power-on and after `RESET` of any state (10_state R40). -/
def Obligations.ResetValues : Prop :=
  ∀ t : State, (t = State.reset ∨ ∃ s, exec .reset s = .next t) →
    t.crc = 0xFFFF ∧ t.txLen = 0 ∧ (∀ a, t.txBuf.read a = none) ∧ t.sess = .idle ∧ t.rxLen = 0 ∧
    (∀ a, t.rxBuf.read a = none) ∧ t.success = false ∧ t.errKind = .noError ∧ t.vLen = false ∧
    t.vCrc = false ∧ t.vFc = false ∧ t.valid = false

/-- `RESET` completes in every state, `AWAIT` among them, writes every register and does not touch the channel
(43_session R170); `STATUS` is then 0; its encoding. In `AWAIT` every other host command is refused. The frame beyond the
block's registers is over the model's own fields: the parameter (log 7), the host's queue (log 1), the answers (log 5 and 6),
the traces (log 19) and the refusal in them (log 4). Nothing is said of `sendAccepted` (log 16). -/
def Obligations.ResetCommand : Prop :=
  (∀ s : State, ∃ t : State, exec .reset s = .next t ∧
    t = { State.reset with
          shortWritePolicy := s.shortWritePolicy
          sendAccepted := t.sendAccepted
          commands := s.commands
          writeAnswers := s.writeAnswers
          readAnswers := s.readAnswers
          draws := s.draws
          wire := s.wire
          results := s.results ++ [.ok] } ∧
    t.status = 0x0000 ∧ t.crc = 0xFFFF) ∧
  (∀ (s : State) (i : Instr) (cw raw : Word64), s.sess = .await → encode i = .command cw raw → i ≠ .reset →
    ∃ r, exec i s = .next { s with results := s.results ++ [.refused r] }) ∧
  ∀ raw, decodeCommand 0x7000000000000000 raw = .ok .reset

/-! ### The CRC unit -/

/-- `CRC.INIT` (40_crc16 R103): its whole effect when `IDLE`, its refusal when `AWAIT`, its encoding. -/
def Obligations.CrcInitEffect : Prop :=
  (∀ s : State, s.sess = .idle →
    exec .crcInit s = .next { s with crc := 0xFFFF, results := s.results ++ [.ok] }) ∧
  (∀ s : State, s.sess = .await →
    exec .crcInit s = .next { s with results := s.results ++ [.refused .busy] }) ∧
  ∀ raw, decodeCommand 0x1000000000000000 raw = .ok .crcInit

/-- `CRC.UPDATE` (40_crc16 R105): its whole effect when `IDLE`, its refusal when `AWAIT`, its encoding, that it continues the
computation under way (from reset too), and the rule's example. -/
def Obligations.CrcUpdateEffect : Prop :=
  (∀ (s : State) (b : Byte), s.sess = .idle →
    exec (.crcUpdate b) s = .next { s with crc := crcUpdate s.crc b, results := s.results ++ [.ok] }) ∧
  (∀ (s : State) (b : Byte), s.sess = .await →
    exec (.crcUpdate b) s = .next { s with results := s.results ++ [.refused .busy] }) ∧
  (∀ cw raw : Word64, cw.extractLsb' 60 4 = 0x2 → cw.extractLsb' 0 52 = 0 →
    decodeCommand cw raw = .ok (.crcUpdate (cw.extractLsb' 52 8))) ∧
  (∀ (a : List Byte) (b : Byte), crcUpdate (crc16 a) b = crc16 (a ++ [b])) ∧
  State.reset.crc = crc16 [] ∧
  crcUpdate 0xFFFF 0x01 = 0x807E

/-- `CRC.READ` (40_crc16 R107): the triple it returns, that it changes nothing, its refusal when `AWAIT`, its encoding, and the
rule's example. -/
def Obligations.CrcReadEffect : Prop :=
  (∀ s : State, s.sess = .idle →
    exec .crcRead s =
      .next { s with results := s.results ++ [.okCrc s.crc (s.crc.extractLsb' 0 8) (s.crc.extractLsb' 8 8)] }) ∧
  (∀ s : State, s.sess = .await →
    exec .crcRead s = .next { s with results := s.results ++ [.refused .busy] }) ∧
  (∀ raw, decodeCommand 0x3000000000000000 raw = .ok .crcRead) ∧
  (∀ s : State, s.sess = .idle → s.crc = crc16 [0x01, 0x03, 0x00, 0x00, 0x00, 0x0A] →
    exec .crcRead s = .next { s with results := s.results ++ [.okCrc 0xCDC5 0xC5 0xCD] })

/-- Streaming: from every idle state the pseudo-operation `CRC16` returns the CRC of its bytes and changes nothing else
(40_crc16 section 2, which marks this law derived). -/
def Obligations.StreamingComputesCrc16 : Prop :=
  ∀ (s : State) (bs : List Byte), s.sess = .idle → s.sendAccepted = false → s.commands = [] →
    Host.Core.run Sys2Proof.core (bs.length + 2) (s.issue (expandCrc16 bs)) =
      .next { s with
        crc := crc16 bs
        results := s.results ++ List.replicate (bs.length + 1) .ok ++
          [.okCrc (crc16 bs) (lo8 (crc16 bs)) (hi8 (crc16 bs))] }

/-- The residue law, both ways: a message has CRC 0 exactly when its last two bytes are the CRC of the others, low byte
first; and high byte first does not do in general (40_crc16 section 3, which marks this law derived). -/
def Obligations.ResidueLaw : Prop :=
  (∀ (bs : List Byte) (lo hi : Byte), crc16 (bs ++ [lo, hi]) = 0 ↔ [lo, hi] = le16 (crc16 bs)) ∧
  crc16 [0x01, 0x06, 0x00, 0x00, 0x00, 0x01, 0x0A, 0x48] ≠ 0

/-- The table form of the byte step (40_crc16 section 3, which marks it derived). -/
def Obligations.TableFormAgrees : Prop :=
  ∀ (c : Word16) (b : Byte), crcUpdate c b = crcUpdateByTable c b

/-- The bit-serial form of the byte step (40_crc16 section 3, which marks it derived). -/
def Obligations.SerialFormAgrees : Prop :=
  ∀ (c : Word16) (b : Byte), crcUpdate c b = crcUpdateSerial c b

/-- For each byte, the byte step is a bijection on the 16-bit values (40_crc16 section 1, which marks it derived). -/
def Obligations.ByteStepBijective : Prop :=
  ∀ b : Byte, Function.Bijective (fun c : Word16 => crcUpdate c b)

/-! ### The encoder -/

/-- `ENC` (41_encoder R122): its whole effect when `IDLE`, byte by byte of `TXBUF`, with no value left beyond the frame; its
refusal when `AWAIT`; its encoding; the rule's example. -/
def Obligations.EncEffect : Prop :=
  (∀ (s : State) (u i x : Byte) (d : DType) (v : Word32), s.sess = .idle →
    ∃ t : State, exec (.enc u i x d v) s = .next t ∧
      (∀ a, a < 10 → t.txBuf.read a = (encodeFrame u i x d v)[a]?) ∧
      (∀ a, 10 ≤ a → t.txBuf.read a = s.txBuf.read a) ∧
      t.txLen.toNat = (encodeFrame u i x d v).length ∧
      t = { s with
            txBuf := t.txBuf
            txLen := t.txLen
            results := s.results ++ [.okFrame (encodeFrame u i x d v)] }) ∧
  (∀ (s : State) (u i x : Byte) (d : DType) (v : Word32), s.sess = .await →
    exec (.enc u i x d v) s = .next { s with results := s.results ++ [.refused .busy] }) ∧
  (∀ cw raw : Word64, cw.extractLsb' 60 4 = 0x4 → cw.extractLsb' 33 3 = 0 →
    decodeCommand cw raw = .ok (.enc (cw.extractLsb' 52 8) (cw.extractLsb' 44 8) (cw.extractLsb' 36 8)
      (if cw.getLsbD 32 then .u32 else .u16) (cw.extractLsb' 0 32))) ∧
  encodeFrame 1 0x00 0x00 .u16 1 = [0x01, 0x06, 0x00, 0x00, 0x00, 0x01, 0x48, 0x0A]

/-- The function `encode` (41_encoder R123), every byte of it, with the value bytes and the CRC bytes as arithmetic on
numbers. -/
def Obligations.EncodeBytes : Prop :=
  ∀ (u i x : Byte) (v : Word32),
    (let body : List Byte :=
      [u, 0x06, i, x, BitVec.ofNat 8 (v.toNat % 2 ^ 16 / 256), BitVec.ofNat 8 (v.toNat % 256)]
     encodeFrame u i x .u16 v =
      body ++ [BitVec.ofNat 8 ((crc16 body).toNat % 256), BitVec.ofNat 8 ((crc16 body).toNat / 256)]) ∧
    (let body : List Byte :=
      [u, 0x03, i, x, BitVec.ofNat 8 (v.toNat / 2 ^ 24), BitVec.ofNat 8 (v.toNat / 2 ^ 16 % 256),
        BitVec.ofNat 8 (v.toNat / 2 ^ 8 % 256), BitVec.ofNat 8 (v.toNat % 256)]
     encodeFrame u i x .u32 v =
      body ++ [BitVec.ofNat 8 ((crc16 body).toNat % 256), BitVec.ofNat 8 ((crc16 body).toNat / 256)])

/-- The length law (41_encoder R124). -/
def Obligations.EncodeLength : Prop :=
  ∀ (u i x : Byte) (d : DType) (v : Word32),
    (encodeFrame u i x d v).length = match d with
      | .u16 => 8
      | .u32 => 10

/-- Truncation (41_encoder R125): a U16 `ENC` of a value and of the value modulo 2^16 do the same, from every state, and the
value bytes read back as the value modulo 2^16 (U16) or the value itself (U32); the rule's boundary values. -/
def Obligations.ValueWraps : Prop :=
  (∀ (s : State) (u i x : Byte) (v : Word32),
    exec (.enc u i x .u16 v) s = exec (.enc u i x .u16 (BitVec.ofNat 32 (v.toNat % 2 ^ 16))) s) ∧
  (∀ (u i x : Byte) (v : Word32), ∃ b1 b0 c1 c0,
    encodeFrame u i x .u16 v = [u, 0x06, i, x, b1, b0, c1, c0] ∧
    (ofBe16 b1 b0).toNat = v.toNat % 2 ^ 16) ∧
  (∀ (u i x : Byte) (v : Word32), ∃ b3 b2 b1 b0 c1 c0,
    encodeFrame u i x .u32 v = [u, 0x03, i, x, b3, b2, b1, b0, c1, c0] ∧ ofBe32 b3 b2 b1 b0 = v) ∧
  (valueBytes .u16 0 = [0x00, 0x00] ∧ valueBytes .u16 65535 = [0xFF, 0xFF] ∧
   valueBytes .u16 65536 = [0x00, 0x00] ∧ valueBytes .u16 65537 = [0x00, 0x01] ∧
   valueBytes .u16 70000 = [0x11, 0x70] ∧ valueBytes .u16 0xABCD1234 = [0x12, 0x34] ∧
   valueBytes .u16 5000 = [0x13, 0x88] ∧
   valueBytes .u32 0 = [0x00, 0x00, 0x00, 0x00] ∧ valueBytes .u32 65536 = [0x00, 0x01, 0x00, 0x00] ∧
   valueBytes .u32 0xFFFFFFFF = [0xFF, 0xFF, 0xFF, 0xFF] ∧
   presentValue .refuse (2 ^ 32) = some 0 ∧ presentValue .refuse (2 ^ 32 + 5) = some 5)

/-- A frame determines the operands up to truncation (41_encoder section 2, which marks this law derived). -/
def Obligations.FrameDeterminesOperands : Prop :=
  ∀ (u i x u' i' x' : Byte) (d d' : DType) (v v' : Word32),
    encodeFrame u i x d v = encodeFrame u' i' x' d' v' ↔
      u = u' ∧ i = i' ∧ x = x' ∧ d = d' ∧
        (match d with
         | .u16 => v.toNat % 2 ^ 16 = v'.toNat % 2 ^ 16
         | .u32 => v = v')

/-- What a host presents for an integer (41_encoder R128): a non-negative `n` arrives as `n mod 2^32`, which gives the value
bytes of `n mod 2^16` or `n mod 2^32`, under either setting of `NEG_POLICY`; a negative one is not presented under the default
setting, and arrives as its two's complement wrap under the other (log 8). -/
def Obligations.PresentedValue : Prop :=
  (∀ (p : NegPolicy) (n : Nat), ∃ v, presentValue p (n : Int) = some v ∧ v.toNat = n % 2 ^ 32 ∧
    valueBytes .u16 v = [BitVec.ofNat 8 (n / 2 ^ 8), BitVec.ofNat 8 n] ∧
    valueBytes .u32 v =
      [BitVec.ofNat 8 (n / 2 ^ 24), BitVec.ofNat 8 (n / 2 ^ 16), BitVec.ofNat 8 (n / 2 ^ 8), BitVec.ofNat 8 n]) ∧
  (∀ n : Int, n < 0 → presentValue .refuse n = none ∧
    ∀ d, expandCmd .refuse (some d) n = .error .negativeValue) ∧
  (∀ n : Int, n < 0 → ∃ v : ValueWord, presentValue .wrap n = some v ∧ (v.toNat : Int) = n % 2 ^ 32) ∧
  Config.negDefault = .refuse

/-! ### The decoder and validator -/

/-- `DEC` (42_decoder R141): refused for more than 8 bytes whatever `SESS` is, refused when `AWAIT`, else its whole effect, with
`txfc` the byte `TXBUF[1]` if `TXLEN` is not 0; with no bytes it makes the writes of `raise NoResponse()`; its encoding; the
rule's example. -/
def Obligations.DecEffect : Prop :=
  (∀ (s : State) (bs : List Byte), 8 < bs.length →
    exec (.dec bs) s = .next { s with results := s.results ++ [.refused .badLen] }) ∧
  (∀ (s : State) (bs : List Byte), bs.length ≤ 8 → s.sess = .await →
    exec (.dec bs) s = .next { s with results := s.results ++ [.refused .busy] }) ∧
  (∀ (s : State) (bs : List Byte) (fc : Option Byte), bs.length ≤ 8 → s.sess = .idle →
    (s.txLen = 0 ∧ fc = none ∨ s.txLen ≠ 0 ∧ (s.txBuf.read 1).isSome = true ∧ fc = s.txBuf.read 1) →
    ∃ t : State, exec (.dec bs) s = .next t ∧
      (∀ a, a < 8 → t.rxBuf.read a = bs[a]?) ∧ (∀ a, 8 ≤ a → t.rxBuf.read a = s.rxBuf.read a) ∧
      t.rxLen.toNat = bs.length ∧
      t = { s with
            rxBuf := t.rxBuf
            rxLen := t.rxLen
            success := (decodeExchange bs fc).success
            errKind := (decodeExchange bs fc).errKind
            vLen := (decodeExchange bs fc).vLen
            vCrc := (decodeExchange bs fc).vCrc
            vFc := (decodeExchange bs fc).vFc
            valid := (decodeExchange bs fc).valid
            results := s.results ++
              [.okExchange (decodeExchange bs fc).success bs (decodeExchange bs fc).errKind] }) ∧
  (∀ s : State, s.sess = .idle → s.requestFc.isOk = true →
    exec (.dec []) s = .next ((s.raiseError .noResponse).pushResult (.okExchange false [] .noResponse))) ∧
  (∀ cw raw : Word64, cw.extractLsb' 60 4 = 0x6 → cw.extractLsb' 0 56 = 0 → (cw.extractLsb' 56 4).toNat ≤ 8 →
    ∃ bs, decodeCommand cw raw = .ok (.dec bs) ∧ bs.length = (cw.extractLsb' 56 4).toNat ∧
      ∀ i, i < bs.length → bs[i]? = some (raw.extractLsb' (56 - 8 * i) 8)) ∧
  decodeExchange [0x01, 0x06, 0x00, 0x00, 0x00, 0x01, 0x48, 0x0A] (some 0x06) =
    ⟨true, .noError, [0x01, 0x06, 0x00, 0x00, 0x00, 0x01, 0x48, 0x0A], true, true, true, true⟩

/-- The non-gating law (42_decoder R148), of the function and of the two operations that run it. -/
def Obligations.SuccessIsNonEmpty : Prop :=
  (∀ (raw : List Byte) (fc : Option Byte),
    ((decodeExchange raw fc).success = true ↔ 0 < raw.length) ∧
    ((decodeExchange raw fc).errKind = if 0 < raw.length then .noError else .noResponse)) ∧
  (∀ (s t : State) (raw : List Byte), s.sess = .idle → raw.length ≤ 8 → exec (.dec raw) s = .next t →
    (t.success = true ↔ 0 < raw.length)) ∧
  ∀ (s t : State) (raw : List Byte), exec (.resp raw) s = .next t → (t.success = true ↔ 0 < raw.length)

/-- The validator's flags (42_decoder R143, R144, R146), `V_CRC` also as the residue test; and `V_FC` (section 2 there). -/
def Obligations.ValidatorFlags : Prop :=
  ∀ (raw : List Byte) (fc : Option Byte),
    ((decodeExchange raw fc).vLen = true ↔ 4 ≤ raw.length) ∧
    ((decodeExchange raw fc).vCrc = true ↔
      4 ≤ raw.length ∧
        raw[raw.length - 2]? = some (lo8 (crc16 (raw.take (raw.length - 2)))) ∧
        raw[raw.length - 1]? = some (hi8 (crc16 (raw.take (raw.length - 2))))) ∧
    ((decodeExchange raw fc).vCrc = true ↔ 4 ≤ raw.length ∧ crc16 raw = 0) ∧
    ((decodeExchange raw fc).vFc = true ↔ ∃ b, fc = some b ∧ raw[1]? = some b) ∧
    (decodeExchange raw fc).valid =
      ((decodeExchange raw fc).vLen && (decodeExchange raw fc).vCrc && (decodeExchange raw fc).vFc)

/-- What the validator says of an echo cut to 8 bytes: all flags for a U16 request, and for a U32 request `V_CRC` only when
bytes 6 and 7 happen to be the CRC of bytes 0 to 5 (42_decoder section 5 and 95_test_vectors section 6, which mark this
derived; that the drive echoes is not assumed). -/
def Obligations.CutEchoFlags : Prop :=
  ∀ (u i x : Byte) (v : Word32),
    (let f := encodeFrame u i x .u16 v
     (decodeExchange (f.take 8) (some 0x06)).valid = true) ∧
    (let f := encodeFrame u i x .u32 v
     let r := decodeExchange (f.take 8) (some 0x03)
     r.success = true ∧ r.vLen = true ∧ r.vFc = true ∧
       (r.vCrc = true ↔ [f.getD 6 0, f.getD 7 0] = le16 (crc16 (f.take 6))) ∧ r.valid = r.vCrc)

/-- The views after a response of `n` bytes has been stored, by `DEC` or by `RESP` (42_decoder section 4; that an answer is an
instruction is log 11): their values where they are defined, and where they are not a fault, which is the model's form of
`no value` (log 9). -/
def Obligations.ResponseViews : Prop :=
  ∀ (s t : State) (bs : List Byte), bs.length ≤ 8 →
    (s.sess = .idle ∧ exec (.dec bs) s = .next t ∨ s.sess = .await ∧ exec (.resp bs) s = .next t) →
    (1 ≤ bs.length → t.rUnit = .ok (bs.getD 0 0)) ∧
    (2 ≤ bs.length → t.rFc = .ok (bs.getD 1 0)) ∧
    (4 ≤ bs.length → t.rData = .ok ((bs.drop 2).take (bs.length - 4))) ∧
    (4 ≤ bs.length →
      t.rCrc = .ok (BitVec.ofNat 16
        ((bs.getD (bs.length - 2) 0).toNat + 256 * (bs.getD (bs.length - 1) 0).toNat))) ∧
    (bs.length < 1 → ∃ f, t.rUnit = .error f) ∧
    (bs.length < 2 → ∃ f, t.rFc = .error f) ∧
    (bs.length < 4 → ∃ f g, t.rData = .error f ∧ t.rCrc = .error g)

/-! ### The exchange sequencer -/

/-- `SEND` as the host issues it (43_session section 1; that acceptance is a step of its own is log 2): refused when `AWAIT`,
refused with no frame, else accepted with nothing else changed. -/
def Obligations.SendAcceptance : Prop :=
  (∀ s : State, s.sess = .await →
    exec .send s = .next { s with results := s.results ++ [.refused .busy] }) ∧
  (∀ s : State, s.sess = .idle → s.txLen = 0 →
    exec .send s = .next { s with results := s.results ++ [.refused .noFrame] }) ∧
  (∀ s : State, s.sess = .idle → s.txLen ≠ 0 → exec .send s = .next { s with sendAccepted := true }) ∧
  ∀ raw, decodeCommand 0x5000000000000000 raw = .ok .send

/-- `WR16` and `WR32` complete where the step `SEND.TX` is enabled, whatever the channel answers: their bytes are handed to
the channel in one write; an answer that counts every byte leaves `SESS` at `AWAIT` and changes no other register, a
shorter count ends the exchange with the writes of `raise ChannelIO()` unless `SHORT_WRITE_POLICY` is `accept`, and an error
always does (41_encoder section 4, 43_session section 1; the frame as an instruction is log 11, the acceptance log 2, the
channel's answers log 5, the parameter log 7, a count above the frame's length log 24). -/
def Obligations.RequestFrameEffect : Prop :=
  ∀ (s : State) (i : Instr) (f : List Byte),
    ((∃ u a x v lo hi, i = .wr16 u a x v lo hi ∧
      f = [u, 0x06, a, x, v.extractLsb' 8 8, v.extractLsb' 0 8, lo, hi]) ∨
     ∃ u a x v lo hi, i = .wr32 u a x v lo hi ∧
      f = [u, 0x03, a, x, v.extractLsb' 24 8, v.extractLsb' 16 8, v.extractLsb' 8 8, v.extractLsb' 0 8, lo, hi]) →
    s.sess = .idle → s.sendAccepted = true →
    (∃ t, exec i s = .next t ∧ t.wire = s.wire ++ [.write f] ∧ t.crc = s.crc ∧ t.txBuf = s.txBuf ∧
      t.txLen = s.txLen ∧ t.commands = s.commands ∧ t.readAnswers = s.readAnswers ∧
      t.sendAccepted = false) ∧
    (∀ a as d, s.NextWrite a as d → TakenAsWritten s.shortWritePolicy f.length a →
      exec i s = .next { s with
        sess := .await, sendAccepted := false, writeAnswers := as, draws := d, wire := s.wire ++ [.write f] }) ∧
    (∀ a as d, s.NextWrite a as d → TakenAsError s.shortWritePolicy f.length a →
      ∃ t, exec i s = .next t ∧ (∀ k, k < 8 → t.rxBuf.read k = none) ∧
        (∀ k, 8 ≤ k → t.rxBuf.read k = s.rxBuf.read k) ∧
        t = { s with
              rxBuf := t.rxBuf, rxLen := 0, success := false, errKind := .channelIo, vLen := false,
              vCrc := false, vFc := false, valid := false, sendAccepted := false, writeAnswers := as, draws := d,
              wire := s.wire ++ [.write f], results := s.results ++ [.okExchange false [] .channelIo] })

/-- `RESP` completes where the step `SEND.RX` is enabled and its request's function code can be read: its whole effect
(42_decoder section 2, 43_session section 1; running the answer as an instruction is log 11). -/
def Obligations.ResponseEffect : Prop :=
  ∀ (s : State) (bs : List Byte) (fc : Option Byte), bs.length ≤ 8 → s.sess = .await →
    (s.txLen = 0 ∧ fc = none ∨ s.txLen ≠ 0 ∧ (s.txBuf.read 1).isSome = true ∧ fc = s.txBuf.read 1) →
    ∃ t : State, exec (.resp bs) s = .next t ∧
      (∀ a, a < 8 → t.rxBuf.read a = bs[a]?) ∧ (∀ a, 8 ≤ a → t.rxBuf.read a = s.rxBuf.read a) ∧
      t.rxLen.toNat = bs.length ∧
      t = { s with
            rxBuf := t.rxBuf
            rxLen := t.rxLen
            success := (decodeExchange bs fc).success
            errKind := (decodeExchange bs fc).errKind
            vLen := (decodeExchange bs fc).vLen
            vCrc := (decodeExchange bs fc).vCrc
            vFc := (decodeExchange bs fc).vFc
            valid := (decodeExchange bs fc).valid
            sess := .idle
            wire := s.wire ++ [.read (.bytes bs)]
            results := s.results ++
              [.okExchange (decodeExchange bs fc).success bs (decodeExchange bs fc).errKind] }

/-- The step `SEND.TX` of the block (43_session section 1): with an accepted `SEND` in a state that meets the invariants, one
write of exactly `TXBUF[0 .. TXLEN-1]`; when it is written only `SESS` changes among the registers, when it is not the registers
take the writes of `raise ChannelIO()` and no read follows. The acceptance is log 2, the channel's answers and `draws` log 5,
what a short count means log 7 (an error at the spec's default), a count above the frame's length log 24. -/
def Obligations.SendTxStep : Prop :=
  ∀ s : State, s.Inv → s.sendAccepted = true →
    ∃ f, s.frame = .ok f ∧ f.length = s.txLen.toNat ∧ (∀ a, a < s.txLen.toNat → f[a]? = s.txBuf.read a) ∧
      (∀ a as d, s.NextWrite a as d → TakenAsWritten s.shortWritePolicy f.length a →
        step s = .next { s with
          sess := .await, sendAccepted := false, writeAnswers := as, draws := d, wire := s.wire ++ [.write f] }) ∧
      (∀ a as d, s.NextWrite a as d → TakenAsError s.shortWritePolicy f.length a →
        step s = .next { (s.raiseError .channelIo) with
          sess := .idle, sendAccepted := false, writeAnswers := as, draws := d, wire := s.wire ++ [.write f],
          results := s.results ++ [.okExchange false [] .channelIo] })

/-- The step `SEND.RX` of the block (43_session section 1): one read of at most 8 bytes; `ioerror` gives the writes of
`raise ChannelIO()`, bytes give what `decode` says with `txfc = TXBUF[1]`, and none of them the writes of
`raise NoResponse()`; `SESS` is `IDLE` in every case. The premise on `early` is log 3; the channel's answers, `draws` and the cut
of an answer of more than 8 bytes are log 6. -/
def Obligations.SendRxStep : Prop :=
  ∀ s : State, s.Inv → s.sess = .await → (∀ c cs, s.commands = c :: cs → c.early = false) →
    (∀ as d, s.NextRead .ioerror as d →
      step s = .next { (s.raiseError .channelIo) with
        sess := .idle, readAnswers := as, draws := d, wire := s.wire ++ [.read .ioerror],
        results := s.results ++ [.okExchange false [] .channelIo] }) ∧
    (∀ r as d, s.NextRead (.bytes r) as d → ∃ t : State, step s = .next t ∧
      (∀ a, a < 8 → t.rxBuf.read a = (r.take 8)[a]?) ∧
      t.rxLen.toNat = (r.take 8).length ∧
      t = { s with
            rxBuf := t.rxBuf
            rxLen := t.rxLen
            success := (decodeExchange (r.take 8) (s.txBuf.read 1)).success
            errKind := (decodeExchange (r.take 8) (s.txBuf.read 1)).errKind
            vLen := (decodeExchange (r.take 8) (s.txBuf.read 1)).vLen
            vCrc := (decodeExchange (r.take 8) (s.txBuf.read 1)).vCrc
            vFc := (decodeExchange (r.take 8) (s.txBuf.read 1)).vFc
            valid := (decodeExchange (r.take 8) (s.txBuf.read 1)).valid
            sess := .idle
            readAnswers := as
            draws := d
            wire := s.wire ++ [.read (.bytes (r.take 8))]
            results := s.results ++ [.okExchange (decodeExchange (r.take 8) (s.txBuf.read 1)).success (r.take 8)
              (decodeExchange (r.take 8) (s.txBuf.read 1)).errKind] }) ∧
    (∀ as d, s.NextRead (.bytes []) as d →
      step s = .next { (s.raiseError .noResponse) with
        sess := .idle, readAnswers := as, draws := d, wire := s.wire ++ [.read (.bytes [])],
        results := s.results ++ [.okExchange false [] .noResponse] }) ∧
    ∀ t, step s = .next t → t.sess = .idle

/-- From `AWAIT`, with the host waiting, the next step exists and ends in `IDLE`, whatever the channel answers
(43_session R167; that the read returns at all is the spec's assumption on the channel, log 13). -/
def Obligations.ExchangeTerminates : Prop :=
  ∀ s : State, s.Inv → s.sess = .await → (∀ c cs, s.commands = c :: cs → c.early = false) →
    ∃ t, step s = .next t ∧ t.sess = .idle

/-- The pseudo-operation `XCHG`, from every idle state and for every answer of the channel: the frame of its operands is
written once, one read follows if the write succeeded, and the results are the frame and the exchange's outcome, one of the
three of the sequencer's section 3 (30_encoding section 6, 43_session sections 1 and 3). The channel's answers are log 5 and 6,
what a short count means log 7, a count above the frame's length log 24, the traces log 19. -/
def Obligations.XchgProgram : Prop :=
  ∀ (s : State) (u i x : Byte) (d : DType) (v : Word32) (w : WriteAnswer) (ws : List WriteAnswer) (m : Nat)
    (a : ReadAnswer) (as : List ReadAnswer) (n : Nat),
    s.IdleStart → s.commands = [] → s.NextWrite w ws m → ({ s with draws := m }).NextRead a as n →
    ∃ t : State, Host.Core.run Sys2Proof.core 4 (s.issue (expandXchg u i x d v)) = .next t ∧
      t.Final ∧ t.crc = s.crc ∧ t.frame = .ok (encodeFrame u i x d v) ∧
      (TakenAsWritten s.shortWritePolicy (encodeFrame u i x d v).length w →
        (a = .ioerror →
          t.wire = s.wire ++ [.write (encodeFrame u i x d v), .read .ioerror] ∧
          t.results = s.results ++ [.okFrame (encodeFrame u i x d v), .okExchange false [] .channelIo] ∧
          t.success = false ∧ t.errKind = .channelIo ∧ t.response = .ok []) ∧
        ∀ r, a = .bytes r →
          t.wire = s.wire ++ [.write (encodeFrame u i x d v), .read (.bytes (r.take 8))] ∧
          t.response = .ok (r.take 8) ∧
          (r ≠ [] →
            t.results = s.results ++ [.okFrame (encodeFrame u i x d v), .okExchange true (r.take 8) .noError] ∧
            t.success = true ∧ t.errKind = .noError) ∧
          (r = [] →
            t.results = s.results ++ [.okFrame (encodeFrame u i x d v), .okExchange false [] .noResponse] ∧
            t.success = false ∧ t.errKind = .noResponse)) ∧
      (TakenAsError s.shortWritePolicy (encodeFrame u i x d v).length w →
        t.wire = s.wire ++ [.write (encodeFrame u i x d v)] ∧
        t.results = s.results ++ [.okFrame (encodeFrame u i x d v), .okExchange false [] .channelIo] ∧
        t.success = false ∧ t.errKind = .channelIo ∧ t.response = .ok [])

/-- Exchanges are independent (43_session section 3): two idle blocks with the same frame and the same answers of the channel
end an exchange with the same results, under one setting of `SHORT_WRITE_POLICY` (log 7), whatever else differed, the CRC
register and the earlier results among it. -/
def Obligations.ExchangesIndependent : Prop :=
  ∀ s s' : State, s.IdleStart → s'.IdleStart → s.txLen ≠ 0 → s.commands = [] → s'.commands = [] →
    s.txBuf = s'.txBuf → s.txLen = s'.txLen → s.writeAnswers = s'.writeAnswers →
    s.readAnswers = s'.readAnswers → s.draws = s'.draws → s.shortWritePolicy = s'.shortWritePolicy →
    ∃ t t' : State, Host.Core.run Sys2Proof.core 3 (s.issue [.send]) = .next t ∧
      Host.Core.run Sys2Proof.core 3 (s'.issue [.send]) = .next t' ∧
      t.success = t'.success ∧ t.errKind = t'.errKind ∧ t.rxBuf = t'.rxBuf ∧ t.rxLen = t'.rxLen ∧
      t.vLen = t'.vLen ∧ t.vCrc = t'.vCrc ∧ t.vFc = t'.vFc ∧ t.valid = t'.valid ∧
      ∃ r ws, t.results = s.results ++ [r] ∧ t'.results = s'.results ++ [r] ∧
        t.wire = s.wire ++ ws ∧ t'.wire = s'.wire ++ ws

/-- No retry, one write at most and one read at most (20_memory section 2, 43_session section 3): a step adds at most one
event to the wire, a write only in `SEND.TX` and of exactly the frame in `TXBUF`, a read only in `AWAIT`. -/
def Obligations.OneWireEventPerStep : Prop :=
  ∀ s t : State, step s = .next t →
    t.wire = s.wire ∨
    (∃ f, t.wire = s.wire ++ [.write f] ∧ s.sess = .idle ∧ s.sendAccepted = true ∧ s.frame = .ok f ∧
      t.sendAccepted = false) ∨
    ∃ a, t.wire = s.wire ++ [.read a] ∧ s.sess = .await ∧ t.sess = .idle ∧
      ∀ r, a = .bytes r → r.length ≤ 8

/-! ### Errors, refusals, and whole-machine rules -/

/-- What `raise` writes, and nothing else (60_exceptions R187), of both errors the block can raise: every byte of `RXBUF` loses its value, `CRC`,
`TXBUF` and `TXLEN` keep theirs. -/
def Obligations.RaiseWrites : Prop :=
  ∀ (s : State) (k : ErrKind), k = .channelIo ∨ k = .noResponse →
    (∀ a, a < 8 → (s.raiseError k).rxBuf.read a = none) ∧
    (∀ a, 8 ≤ a → (s.raiseError k).rxBuf.read a = s.rxBuf.read a) ∧
    s.raiseError k =
      { s with
        success := false
        errKind := k
        rxLen := 0
        rxBuf := (s.raiseError k).rxBuf
        vLen := false
        vCrc := false
        vFc := false
        valid := false }

/-- While `AWAIT`, every host operation but `RESET` is refused with `BUSY` (43_session section 4, which marks the table
derived; `DEC` of more than 8 bytes is `BAD_LEN` first). -/
def Obligations.BusyWhileAwaiting : Prop :=
  ∀ (s : State) (i : Instr), s.sess = .await →
    (i = .crcInit ∨ (∃ b, i = .crcUpdate b) ∨ i = .crcRead ∨ (∃ u a x d v, i = .enc u a x d v) ∨
      i = .send ∨ ∃ bs, i = .dec bs ∧ bs.length ≤ 8) →
    exec i s = .next { s with results := s.results ++ [.refused .busy] }

/-- The order of refusals at the host port, and that a refused command changes no register: `BAD_OP` or `BAD_LEN` from the
word, whatever `SESS` is; then `BUSY`; then `NO_FRAME` (30_encoding section 4, 60_exceptions sections 2 and 4; that a refusal
is a result of a next state is log 4). -/
def Obligations.RefusalOrder : Prop :=
  ∀ (s : State) (c : Command) (cs : List Command), s.commands = c :: cs →
    (s.sess = .idle ∧ s.sendAccepted = false ∨ s.sess = .await ∧ c.early = true) →
    (∀ r, decodeCommand c.cw c.raw = .error r →
      step s = .next { s with commands := cs, results := s.results ++ [.refused r] }) ∧
    (∀ i, decodeCommand c.cw c.raw = .ok i → i ≠ .reset → s.sess = .await →
      step s = .next { s with commands := cs, results := s.results ++ [.refused .busy] }) ∧
    (decodeCommand c.cw c.raw = .ok .send → s.sess = .idle → s.txLen = 0 →
      step s = .next { s with commands := cs, results := s.results ++ [.refused .noFrame] })

/-- Over all instructions: when the result is a refusal, nothing but the list of results has changed (60_exceptions section 2;
log 4). -/
def Obligations.RefusedChangesNothing : Prop :=
  ∀ (i : Instr) (s t : State) (r : RefuseReason), exec i s = .next t →
    t.results = s.results ++ [.refused r] → t = { s with results := s.results ++ [.refused r] }

/-- Who writes what, over all instructions: the column `written by` of 10_state section 1, where the wire instructions stand for
the writers `SEND.TX` and `SEND.RX` (log 11); that `RESET` writes every register (43_session section 5), and that a failed write
clears the response (60_exceptions section 2). -/
def Obligations.RegisterWriters : Prop :=
  ∀ (i : Instr) (s t : State), exec i s = .next t →
    (t.crc ≠ s.crc → i = .crcInit ∨ (∃ b, i = .crcUpdate b) ∨ i = .reset) ∧
    (t.txBuf ≠ s.txBuf ∨ t.txLen ≠ s.txLen → (∃ u a x d v, i = .enc u a x d v) ∨ i = .reset) ∧
    (t.sess ≠ s.sess → (∃ u a x v lo hi, i = .wr16 u a x v lo hi) ∨ (∃ u a x v lo hi, i = .wr32 u a x v lo hi) ∨
      (∃ bs, i = .resp bs) ∨ i = .reset) ∧
    (t.rxBuf ≠ s.rxBuf ∨ t.rxLen ≠ s.rxLen ∨ t.success ≠ s.success ∨ t.errKind ≠ s.errKind ∨
        t.vLen ≠ s.vLen ∨ t.vCrc ≠ s.vCrc ∨ t.vFc ≠ s.vFc ∨ t.valid ≠ s.valid →
      (∃ bs, i = .dec bs) ∨ (∃ bs, i = .resp bs) ∨
      (((∃ u a x v lo hi, i = .wr16 u a x v lo hi) ∨ ∃ u a x v lo hi, i = .wr32 u a x v lo hi) ∧
        t.errKind = .channelIo) ∨
      i = .reset)

/-- No step changes the parameter `SHORT_WRITE_POLICY`, and it stands at its default after reset (00_scope section 3; that State
holds it is log 7). -/
def Obligations.ParameterFixed : Prop :=
  State.reset.shortWritePolicy = .error ∧ ∀ s t : State, step s = .next t → t.shortWritePolicy = s.shortWritePolicy

/-- Isolation of the CRC register (40_crc16 section 3): encoder, decoder and sequencer neither read nor write it, and the CRC
operations (section 2 there) touch nothing of theirs. The wire instructions stand for `SEND.TX` and `SEND.RX` (log 11). -/
def Obligations.CrcIsolation : Prop :=
  (∀ (i : Instr) (s t : State) (c : Word16),
    ((∃ u a x d v, i = .enc u a x d v) ∨ (∃ bs, i = .dec bs) ∨ i = .send ∨
      (∃ u a x v lo hi, i = .wr16 u a x v lo hi) ∨ (∃ u a x v lo hi, i = .wr32 u a x v lo hi) ∨
      ∃ bs, i = .resp bs) →
    exec i s = .next t → t.crc = s.crc ∧ exec i { s with crc := c } = .next { t with crc := c }) ∧
  ∀ (i : Instr) (s t : State), (i = .crcInit ∨ (∃ b, i = .crcUpdate b) ∨ i = .crcRead) →
    exec i s = .next t → t = { s with crc := t.crc, results := t.results }

/-- Where an instruction stops: only `DEC` and `RESP` can fault, and only for a frame whose function code holds no value; a
wire instruction is refused only outside its step (93_implementation_defined section 1; 43_session section 1; log 9, 22). -/
def Obligations.WhereInstructionsStop : Prop :=
  (∀ (i : Instr) (s : State) (f : Fault), exec i s = .fault f →
    f = .noValue .tx 1 ∧ s.txLen ≠ 0 ∧ s.txBuf.read 1 = none ∧ ((∃ bs, i = .dec bs) ∨ ∃ bs, i = .resp bs)) ∧
  ∀ (i : Instr) (s : State) (r : Refusal), exec i s = .refused r →
    (r = .sendTxNotEnabled ∧ ¬(s.sess = .idle ∧ s.sendAccepted = true) ∧
      ((∃ u a x v lo hi, i = .wr16 u a x v lo hi) ∨ ∃ u a x v lo hi, i = .wr32 u a x v lo hi)) ∨
    (r = .sendRxNotEnabled ∧ s.sess = .idle ∧ ∃ bs, i = .resp bs)

/-- The read ports of the buffers in every state that meets the invariants: a byte below the length is read, a byte at or
above it faults (10_state section 3 and 5, 93_implementation_defined section 1). -/
def Obligations.BufferPorts : Prop :=
  ∀ (s : State) (a : Nat), s.Inv →
    (a < s.txLen.toNat → ∃ b, s.portTx a = .ok b ∧ s.txBuf.read a = some b) ∧
    (s.txLen.toNat ≤ a → a < 10 → s.portTx a = .error (.noValue .tx a)) ∧
    (10 ≤ a → s.portTx a = .error (.noSuchAddress .tx a)) ∧
    (a < s.rxLen.toNat → ∃ b, s.portRx a = .ok b ∧ s.rxBuf.read a = some b) ∧
    (s.rxLen.toNat ≤ a → a < 8 → s.portRx a = .error (.noValue .rx a)) ∧
    (8 ≤ a → s.portRx a = .error (.noSuchAddress .rx a))

/-- The layout of `STATUS`, field by field (10_state section 7). -/
def Obligations.StatusLayout : Prop :=
  ∀ s : State,
    s.status.extractLsb' 0 4 = s.txLen ∧
    s.status.extractLsb' 4 4 = s.rxLen ∧
    s.status.getLsbD 8 = decide (s.sess = .await) ∧
    s.status.getLsbD 9 = s.success ∧
    s.status.extractLsb' 10 2 = (match s.errKind with
      | .noError => 0
      | .noResponse => 1
      | .channelIo => 2) ∧
    s.status.getLsbD 12 = s.vLen ∧
    s.status.getLsbD 13 = s.vCrc ∧
    s.status.getLsbD 14 = s.vFc ∧
    s.status.getLsbD 15 = s.valid

/-! ### Invariants -/

/-- The invariants hold after reset. -/
def Obligations.ResetMeetsInvariants : Prop := State.reset.Inv ∧ State.reset.IdleStart ∧ State.reset.CleanStart

/-- Every step keeps the invariants of 10_state section 10 (marked derived there) together with what sections 3 and 5 there say
of the buffers and of `SUCCESS`, from every state that meets them. -/
def Obligations.StepKeepsInvariants : Prop :=
  ∀ s t : State, s.Inv → step s = .next t → t.Inv

/-- Every step keeps the invariants of 10_state section 10 alone (marked derived there), with the model's rule on
`sendAccepted` (log 2), also from states in which the buffers hold more than their lengths say and a stored response is no
success. -/
def Obligations.StepKeepsInvR41 : Prop :=
  ∀ s t : State, s.InvR41 → s.AcceptedWithFrame → step s = .next t → t.InvR41 ∧ t.AcceptedWithFrame

/-- In every state that meets the invariants a step completes: no fault, no stop, whatever the host issues and whatever the
channel answers (10_state section 10, 60_exceptions section 1, 43_session section 2). It rests on the model's readings that a
refusal is a next state (log 4), that the channel's read returns, which is unsafe (log 13), and that an idle block whose host
has issued nothing steps to itself (log 15). -/
def Obligations.StepCompletes : Prop :=
  ∀ s : State, s.Inv → ∃ t, step s = .next t
end

