-- ==== Sys2Proof/Laws/Bytes.lean ====
section
/-! SUPPORT. The bits of the byte-order helpers, and that splitting and joining undo each other. -/

namespace Sys2Proof.Machine

@[simp] theorem crcWidth_eq : Config.crcWidth = 16 := rfl
@[simp] theorem valueWidth_eq : Config.valueWidth = 32 := rfl

@[simp] theorem getLsbD_fieldAt (w pos : Nat) {n : Nat} (b : BitVec n) (i : Nat) :
    (fieldAt w pos b).getLsbD i = (decide (i < w) && (decide (pos ≤ i) && b.getLsbD (i - pos))) := by
  simp only [fieldAt, BitVec.getLsbD_shiftLeft, BitVec.getLsbD_setWidth]
  by_cases h1 : i < w
  · by_cases h2 : pos ≤ i
    · have h3 : ¬ i < pos := by omega
      have h4 : i - pos < w := by omega
      simp [h1, h2, h3, h4]
    · have h3 : i < pos := by omega
      simp [h1, h2, h3]
  · simp [h1]

@[simp] theorem getLsbD_lo8 (v : Word16) (i : Nat) : (lo8 v).getLsbD i = (decide (i < 8) && v.getLsbD i) := by
  simp [lo8, BitVec.getLsbD_extractLsb']

@[simp] theorem getLsbD_hi8 (v : Word16) (i : Nat) :
    (hi8 v).getLsbD i = (decide (i < 8) && v.getLsbD (8 + i)) := by
  simp [hi8, BitVec.getLsbD_extractLsb']

@[simp] theorem getElem_fieldAt (w pos : Nat) {n : Nat} (b : BitVec n) (i : Nat) (h : i < w) :
    (fieldAt w pos b)[i] = (decide (pos ≤ i) && b.getLsbD (i - pos)) := by
  rw [← BitVec.getLsbD_eq_getElem, getLsbD_fieldAt]; simp [h]

@[simp] theorem getElem_lo8 (v : Word16) (i : Nat) (h : i < 8) : (lo8 v)[i] = v.getLsbD i := by
  rw [← BitVec.getLsbD_eq_getElem, getLsbD_lo8]; simp [h]

@[simp] theorem getElem_hi8 (v : Word16) (i : Nat) (h : i < 8) : (hi8 v)[i] = v.getLsbD (8 + i) := by
  rw [← BitVec.getLsbD_eq_getElem, getLsbD_hi8]; simp [h]

@[simp] theorem lo8_ofLe16 (lo hi : Byte) : lo8 (ofLe16 lo hi) = lo := by
  refine BitVec.eq_of_getLsbD_eq fun i hi => ?_
  have h1 : i < 16 := by omega
  have h2 : ¬ 8 ≤ i := by omega
  simp [ofLe16, hi, h1, h2]

@[simp] theorem hi8_ofLe16 (lo hi : Byte) : hi8 (ofLe16 lo hi) = hi := by
  refine BitVec.eq_of_getLsbD_eq fun i hi => ?_
  have h1 : 8 + i < 16 := by omega
  simp [ofLe16, hi, h1]

@[simp] theorem ofLe16_lo8_hi8 (c : Word16) : ofLe16 (lo8 c) (hi8 c) = c := by
  refine BitVec.eq_of_getLsbD_eq fun i hi => ?_
  by_cases h : i < 8
  · have h2 : ¬ 8 ≤ i := by omega
    simp [ofLe16, hi, h, h2]
  · have h2 : 8 ≤ i := by omega
    have h3 : 8 + (i - 8) = i := by omega
    have h4 : i - 8 < 8 := by omega
    simp [ofLe16, hi, h2, h3, h4]

/-- Two words with the same two bytes are equal. -/
theorem le16_inj {c d : Word16} (h : le16 c = le16 d) : c = d := by
  simp only [le16, List.cons.injEq, and_true] at h
  rw [← ofLe16_lo8_hi8 c, ← ofLe16_lo8_hi8 d, h.1, h.2]

theorem le16_ofLe16 (lo hi : Byte) : le16 (ofLe16 lo hi) = [lo, hi] := by simp [le16]

@[simp] theorem ofBe16_be16 (v : Word16) : ofBe16 (hi8 v) (lo8 v) = v := ofLe16_lo8_hi8 v

@[simp] theorem hi8_ofBe16 (b1 b0 : Byte) : hi8 (ofBe16 b1 b0) = b1 := hi8_ofLe16 b0 b1

@[simp] theorem lo8_ofBe16 (b1 b0 : Byte) : lo8 (ofBe16 b1 b0) = b0 := lo8_ofLe16 b0 b1

@[simp] theorem ofBe32_be32 (v : Word32) :
    ofBe32 (v.extractLsb' 24 8) (v.extractLsb' 16 8) (v.extractLsb' 8 8) (v.extractLsb' 0 8) = v := by
  refine BitVec.eq_of_getLsbD_eq fun i hi => ?_
  simp only [ofBe32, BitVec.getLsbD_or, getLsbD_fieldAt, BitVec.getLsbD_extractLsb']
  interval_cases i <;> simp

@[simp] theorem be32_ofBe32 (b3 b2 b1 b0 : Byte) : be32 (ofBe32 b3 b2 b1 b0) = [b3, b2, b1, b0] := by
  simp only [be32, List.cons.injEq, and_true]
  refine ⟨?_, ?_, ?_, ?_⟩ <;>
  · refine BitVec.eq_of_getLsbD_eq fun i hi => ?_
    simp only [ofBe32, BitVec.getLsbD_or, getLsbD_fieldAt, BitVec.getLsbD_extractLsb']
    interval_cases i <;> simp

@[simp] theorem length_rawBytes (n : Nat) (raw : Word64) : (rawBytes n raw).length = min n 8 := by
  simp [rawBytes]

/-- Response byte `i` of `RAW` (30_encoding R85). -/
theorem getElem?_rawBytes (n : Nat) (raw : Word64) (i : Nat) (h : i < n) (h8 : i < 8) :
    (rawBytes n raw)[i]? = some (raw.extractLsb' (56 - 8 * i) 8) := by
  simp only [rawBytes, List.getElem?_take, h, if_true]
  interval_cases i <;> rfl

/-- What is packed into `RAW` is read from it. -/
theorem rawBytes_packRaw (bs : List Byte) (h : bs.length ≤ 8) : rawBytes bs.length (packRaw bs) = bs := by
  refine List.ext_getElem? fun i => ?_
  by_cases hi : i < bs.length
  · rw [getElem?_rawBytes _ _ _ hi (by omega), List.getElem?_eq_getElem hi]
    congr 1
    have h8 : i < 8 := by omega
    have hg : bs[i] = bs.getD i 0 := by simp [hi]
    rw [hg]
    refine BitVec.eq_of_getLsbD_eq fun j hj => ?_
    simp only [packRaw, BitVec.getLsbD_or, getLsbD_fieldAt, BitVec.getLsbD_extractLsb']
    interval_cases i <;> interval_cases j <;> simp
  · rw [List.getElem?_eq_none (by simp; omega), List.getElem?_eq_none (by omega)]

@[simp] theorem length_bytesOfNat (n w : Nat) : (bytesOfNat n w).length = n := by
  induction n generalizing w with
  | zero => rfl
  | succ n ih => simp [bytesOfNat, ih]

end Sys2Proof.Machine
end

