-- ==== Sys2Proof/Laws/Crc.lean ====
section
/-! SUPPORT. Small laws of the CRC functions (40_crc16): the bit step is linear, the byte step splits at the low byte. -/

namespace Sys2Proof.Machine

theorem crc16_eq (s : List Byte) : crc16 s = crcFeed 0xFFFF s := by
  simp [crc16]

/-- The reflected form of the polynomial is the bit reversal of its normal form (40_crc16 R101). -/
theorem crcPolyR_eq : Config.crcPolyR = Config.crcPoly.reverse := by decide

@[simp] theorem crcFeed_nil (c : Word16) : crcFeed c [] = c := rfl

@[simp] theorem crcFeed_cons (c : Word16) (b : Byte) (s : List Byte) :
    crcFeed c (b :: s) = crcFeed (crcUpdate c b) s := rfl

@[simp] theorem crcFeed_append (c : Word16) (s t : List Byte) :
    crcFeed c (s ++ t) = crcFeed (crcFeed c s) t := by
  simp [crcFeed]

/-- Feeding one more byte continues the computation (40_crc16 R105). -/
theorem crc16_snoc (s : List Byte) (b : Byte) : crc16 (s ++ [b]) = crcUpdate (crc16 s) b := by
  simp [crc16_eq]

/-- The polynomial enters under one bit. -/
theorem crcBit_eq (c : Word16) :
    crcBit c = (c >>> 1) ^^^ (if c.getLsbD 0 then Config.crcPolyR else 0) := by
  unfold crcBit; split <;> simp

/-- `crc_bit` is linear over xor. -/
theorem crcBit_xor (c d : Word16) : crcBit (c ^^^ d) = crcBit c ^^^ crcBit d := by
  simp only [crcBit_eq, BitVec.ushiftRight_xor_distrib, BitVec.getLsbD_xor]
  cases c.getLsbD 0 <;> cases d.getLsbD 0 <;>
    ext i hi <;> simp [Bool.xor_comm, Bool.xor_left_comm]

/-- `n` bit steps are linear over xor. -/
theorem crcBits_xor (n : Nat) (c d : Word16) : crcBits n (c ^^^ d) = crcBits n c ^^^ crcBits n d := by
  induction n generalizing c d with
  | zero => rfl
  | succ n ih => simp only [crcBits, crcBit_xor, ih]

/-- Where the low `n` bits are zero, `n` bit steps only shift. -/
theorem crcBits_shift (n : Nat) (c : Word16) (h : ∀ i, i < n → c.getLsbD i = false) :
    crcBits n c = c >>> n := by
  induction n generalizing c with
  | zero => simp [crcBits]
  | succ n ih =>
    have h0 : c.getLsbD 0 = false := h 0 (by omega)
    have h1 : crcBit c = c >>> 1 := by rw [crcBit_eq, h0]; simp
    rw [crcBits, h1, ih (c >>> 1), ← BitVec.shiftRight_add, Nat.add_comm]
    intro i hi
    rw [BitVec.getLsbD_ushiftRight, Nat.add_comm]
    exact h (i + 1) (by omega)

/-- The byte step splits at the low byte: the high byte moves down, the low byte goes through the table. -/
theorem crcUpdate_split (c : Word16) (b : Byte) : crcUpdate c b = (c >>> 8) ^^^ crcTable (lo8 c ^^^ b) := by
  have hsplit : c ^^^ b.zeroExtend 16 = fieldAt 16 8 (hi8 c) ^^^ (lo8 c ^^^ b).zeroExtend 16 := by
    refine BitVec.eq_of_getLsbD_eq fun i hi => ?_
    by_cases h : i < 8
    · have h2 : ¬ 8 ≤ i := by omega
      simp [h, h2, hi]
    · have h1 : 8 ≤ i := by omega
      have h2 : 8 + (i - 8) = i := by omega
      have h3 : i - 8 < 8 := by omega
      simp [h1, h2, h3, hi]
  unfold crcUpdate
  rw [hsplit, crcBits_xor, crcBits_shift]
  · congr 1
    refine BitVec.eq_of_getLsbD_eq fun i hi => ?_
    by_cases h : i < 8
    · have h2 : 8 + i < 16 := by omega
      simp [h, h2]
    · simp [h, BitVec.getLsbD_of_ge c (8 + i) (by omega)]
  · intro i hi
    simp [hi]

/-- Feeding the low byte of the register leaves the high byte (40_crc16 R109). -/
theorem crcUpdate_lo8 (c : Word16) : crcUpdate c (lo8 c) = (hi8 c).zeroExtend 16 := by
  have h0 : crcTable 0#8 = 0 := by decide
  rw [crcUpdate_split, BitVec.xor_self, h0]
  refine BitVec.eq_of_getLsbD_eq fun i hi => ?_
  by_cases h : i < 8
  · simp [h, hi]
  · simp [h, BitVec.getLsbD_of_ge c (8 + i) (by omega)]

/-- Feeding a byte to its own zero extension leaves 0. -/
theorem crcUpdate_zeroExtend (b : Byte) : crcUpdate (b.zeroExtend 16) b = 0 := by
  unfold crcUpdate
  rw [BitVec.xor_self]
  decide

end Sys2Proof.Machine
end

