-- ==== Sys2Proof/Laws/Memory.lean ====
section
/-! SUPPORT. What the buffer operations do to a read, and that each keeps the canonical form. -/

namespace Sys2Proof.Machine

namespace Memory

@[simp] theorem read_nil (a : Nat) : Memory.read [] a = none := rfl

theorem read_cons (k : Nat) (v : Byte) (m : Memory) (a : Nat) :
    Memory.read ((k, v) :: m) a = if a = k then some v else Memory.read m a := rfl

/-- A read after a write to the same place gives the value written; every other place is as before. -/
theorem read_write (m : Memory) (a : Nat) (b : Byte) (x : Nat) :
    Memory.read (Memory.write a b m) x = if x = a then some b else Memory.read m x := by
  induction m with
  | nil => simp [Memory.write, read_cons]
  | cons c m ih =>
    obtain ⟨k, v⟩ := c
    unfold Memory.write
    by_cases h1 : a < k
    · simp [h1, read_cons]
    · by_cases h2 : a = k
      · subst h2; simp [read_cons]; split <;> simp_all
      · simp only [h1, h2, if_false, read_cons, ih]
        by_cases h3 : x = k
        · subst h3; simp [Ne.symm h2]
        · simp [h3]

/-- A read after a byte lost its value. -/
theorem read_clear (m : Memory) (a x : Nat) :
    Memory.read (Memory.clear a m) x = if x = a then none else Memory.read m x := by
  induction m with
  | nil => simp [Memory.clear]
  | cons c m ih =>
    obtain ⟨k, v⟩ := c
    unfold Memory.clear
    by_cases h : a = k
    · subst h
      simp only [if_true, ih, read_cons]
      split <;> simp_all
    · simp only [h, if_false, read_cons, ih]
      by_cases h3 : x = k
      · subst h3; simp [Ne.symm h]
      · simp [h3]

/-- A read after ascending writes from `a`. -/
theorem read_writeFrom (bs : List Byte) (a : Nat) (m : Memory) (x : Nat) :
    Memory.read (Memory.writeFrom a bs m) x =
      if a ≤ x ∧ x < a + bs.length then bs[x - a]? else Memory.read m x := by
  induction bs generalizing a m with
  | nil => simp [Memory.writeFrom]
  | cons b bs ih =>
    simp only [Memory.writeFrom, ih, read_write, List.length_cons]
    by_cases h : x = a
    · subst h; simp
    · by_cases h2 : a + 1 ≤ x ∧ x < a + 1 + bs.length
      · have h3 : a ≤ x ∧ x < a + (bs.length + 1) := by omega
        have h4 : x - a = (x - (a + 1)) + 1 := by omega
        simp [h2, h3, h4]
      · have h3 : ¬(a ≤ x ∧ x < a + (bs.length + 1)) := by omega
        simp only [h2, h3, h, if_false]

/-- A read after `n` addresses from `a` on lost their value. -/
theorem read_clearFrom (n a : Nat) (m : Memory) (x : Nat) :
    Memory.read (Memory.clearFrom a n m) x = if a ≤ x ∧ x < a + n then none else Memory.read m x := by
  induction n generalizing a m with
  | zero => simp [Memory.clearFrom]
  | succ n ih =>
    simp only [Memory.clearFrom, ih, read_clear]
    by_cases h : x = a
    · subst h; simp
    · by_cases h2 : a + 1 ≤ x ∧ x < a + 1 + n
      · have h3 : a ≤ x ∧ x < a + (n + 1) := by omega
        simp [h2, h3]
      · have h3 : ¬(a ≤ x ∧ x < a + (n + 1)) := by omega
        simp only [h2, h3, h, if_false]

/-- Inside the buffer, a fill leaves exactly the bytes given. -/
theorem read_fill (size : Nat) (bs : List Byte) (m : Memory) (hl : bs.length ≤ size) (x : Nat) (hx : x < size) :
    Memory.read (Memory.fill size bs m) x = bs[x]? := by
  simp only [Memory.fill, read_clearFrom, read_writeFrom]
  by_cases h : x < bs.length
  · have h1 : ¬(bs.length ≤ x ∧ x < bs.length + (size - bs.length)) := by omega
    simp [h1, h]
  · have h1 : bs.length ≤ x ∧ x < bs.length + (size - bs.length) := by omega
    simp [h1]

theorem read_none_of_lt (m : Memory) (a : Nat) (h : ∀ c ∈ m, a < c.1) : Memory.read m a = none := by
  induction m with
  | nil => rfl
  | cons c m ih =>
    obtain ⟨k, v⟩ := c
    have := h (k, v) (by simp)
    simp only [read_cons]
    rw [if_neg (by simp at this; omega)]
    exact ih (fun c hc => h c (by simp [hc]))

/-- Nothing is listed outside the buffer. -/
theorem read_none_of_wf {size : Nat} {m : Memory} (h : Memory.wf size m) {a : Nat} (ha : size ≤ a) :
    Memory.read m a = none := by
  obtain ⟨_, hb⟩ := h
  induction m with
  | nil => rfl
  | cons c m ih =>
    obtain ⟨k, v⟩ := c
    have := hb (k, v) (by simp)
    simp only [read_cons]
    rw [if_neg (by simp at this; omega)]
    exact ih (by simp_all) (fun c hc => hb c (by simp [hc]))

theorem mem_write {m : Memory} {a : Nat} {b : Byte} {c : Host.Cell} (h : c ∈ Memory.write a b m) :
    c = (a, b) ∨ c ∈ m := by
  induction m with
  | nil => simpa [Memory.write] using h
  | cons d m ih =>
    obtain ⟨k, v⟩ := d
    unfold Memory.write at h
    split at h
    · simpa using h
    · split at h
      · simp at h ⊢; tauto
      · simp only [List.mem_cons] at h ⊢
        rcases h with h | h
        · exact .inr (.inl h)
        · rcases ih h with h | h
          · exact .inl h
          · exact .inr (.inr h)

theorem mem_clear {m : Memory} {a : Nat} {c : Host.Cell} (h : c ∈ Memory.clear a m) : c ∈ m := by
  induction m with
  | nil => simp [Memory.clear] at h
  | cons d m ih =>
    obtain ⟨k, v⟩ := d
    unfold Memory.clear at h
    split at h
    · exact List.mem_cons_of_mem _ (ih h)
    · simp only [List.mem_cons] at h ⊢
      exact h.imp id ih

/-- A write inside the buffer keeps the canonical form. -/
theorem wf_write {size : Nat} {m : Memory} {a : Nat} (b : Byte) (h : Memory.wf size m) (ha : a < size) :
    Memory.wf size (Memory.write a b m) := by
  obtain ⟨hs, hb⟩ := h
  refine ⟨?_, fun c hc => ?_⟩
  · clear hb ha
    induction m with
    | nil => simp [Memory.write]
    | cons d m ih =>
      obtain ⟨k, v⟩ := d
      rw [List.pairwise_cons] at hs
      unfold Memory.write
      split
      · rename_i hlt
        refine List.pairwise_cons.2 ⟨fun c hc => ?_, List.pairwise_cons.2 hs⟩
        simp only [List.mem_cons] at hc
        rcases hc with rfl | hc
        · exact hlt
        · exact Nat.lt_trans hlt (hs.1 c hc)
      · split
        · rename_i _ he
          subst he
          exact List.pairwise_cons.2 ⟨hs.1, hs.2⟩
        · rename_i h1 h2
          refine List.pairwise_cons.2 ⟨fun c hc => ?_, ih hs.2⟩
          rcases mem_write hc with rfl | hc
          · simp; omega
          · exact hs.1 c hc
  · rcases mem_write hc with rfl | hc
    · exact ha
    · exact hb c hc

/-- A byte losing its value keeps the canonical form. -/
theorem wf_clear {size : Nat} {m : Memory} (a : Nat) (h : Memory.wf size m) : Memory.wf size (Memory.clear a m) := by
  obtain ⟨hs, hb⟩ := h
  refine ⟨?_, fun c hc => hb c (mem_clear hc)⟩
  clear hb
  induction m with
  | nil => simp [Memory.clear]
  | cons d m ih =>
    obtain ⟨k, v⟩ := d
    rw [List.pairwise_cons] at hs
    unfold Memory.clear
    split
    · exact ih hs.2
    · exact List.pairwise_cons.2 ⟨fun c hc => hs.1 c (mem_clear hc), ih hs.2⟩

theorem wf_writeFrom {size : Nat} (bs : List Byte) {a : Nat} {m : Memory} (h : Memory.wf size m)
    (ha : a + bs.length ≤ size) : Memory.wf size (Memory.writeFrom a bs m) := by
  induction bs generalizing a m with
  | nil => exact h
  | cons b bs ih =>
    simp only [List.length_cons] at ha
    exact ih (wf_write b h (by omega)) (by omega)

theorem wf_clearFrom {size : Nat} (n : Nat) {a : Nat} {m : Memory} (h : Memory.wf size m) :
    Memory.wf size (Memory.clearFrom a n m) := by
  induction n generalizing a m with
  | zero => exact h
  | succ n ih => exact ih (wf_clear a h)

/-- A fill keeps the canonical form. -/
theorem wf_fill {size : Nat} {bs : List Byte} {m : Memory} (h : Memory.wf size m) (hl : bs.length ≤ size) :
    Memory.wf size (Memory.fill size bs m) :=
  wf_clearFrom _ (wf_writeFrom bs h (by omega))

/-- After a fill the buffer holds exactly the bytes below the length. -/
theorem holds_fill {size : Nat} {bs : List Byte} {m : Memory} (h : Memory.wf size m) (hl : bs.length ≤ size) :
    Memory.Holds size (Memory.fill size bs m) bs.length where
  wf := wf_fill h hl
  bound := hl
  listed a := by
    by_cases ha : a < size
    · rw [read_fill size bs m hl a ha]; simp
    · rw [read_none_of_wf (wf_fill h hl) (by omega)]; simp; omega

theorem holds_nil (size : Nat) : Memory.Holds size [] 0 where
  wf := ⟨List.Pairwise.nil, by simp⟩
  bound := Nat.zero_le _
  listed a := by simp

/-- Two buffers in the canonical form with the same reads are equal data. -/
theorem ext_of_wf {size : Nat} {m n : Memory} (hm : Memory.wf size m) (hn : Memory.wf size n)
    (h : ∀ a, Memory.read m a = Memory.read n a) : m = n := by
  obtain ⟨hm, -⟩ := hm
  obtain ⟨hn, -⟩ := hn
  induction m generalizing n with
  | nil =>
    cases n with
    | nil => rfl
    | cons c n => obtain ⟨k, v⟩ := c; have := h k; simp [read_cons] at this
  | cons c m ih =>
    obtain ⟨k, v⟩ := c
    cases n with
    | nil => have := h k; simp [read_cons] at this
    | cons d n =>
      obtain ⟨k', v'⟩ := d
      rw [List.pairwise_cons] at hm hn
      have hkk : k = k' := by
        by_contra hne
        rcases Nat.lt_or_gt_of_ne hne with hlt | hlt
        · have := h k
          rw [read_cons, read_cons, if_pos rfl, if_neg hne,
            read_none_of_lt n k (fun c hc => Nat.lt_trans hlt (hn.1 c hc))] at this
          simp at this
        · have := h k'
          rw [read_cons, read_cons, if_pos rfl, if_neg (Ne.symm hne),
            read_none_of_lt m k' (fun c hc => Nat.lt_trans hlt (hm.1 c hc))] at this
          simp at this
      subst hkk
      have hv : v = v' := by have := h k; simpa [read_cons] using this
      subst hv
      congr 1
      refine ih (fun a => ?_) hm.2 hn.2
      by_cases ha : a = k
      · subst ha
        rw [read_none_of_lt m a (fun c hc => hm.1 c hc), read_none_of_lt n a (fun c hc => hn.1 c hc)]
      · have := h a
        simpa [read_cons, ha] using this

end Memory

end Sys2Proof.Machine
end

