-- ==== Sys2Proof/Laws/State.lean ====
section
/-! SUPPORT. One lemma per field per named update of State, true by unfolding: later proofs cite these and unfold no update. -/

namespace Sys2Proof.Machine

variable (s : State)

/-! `pushResult` -/

@[simp] theorem State.pushResult_crc (r : HostResult) : (s.pushResult r).crc = s.crc := rfl
@[simp] theorem State.pushResult_txBuf (r : HostResult) : (s.pushResult r).txBuf = s.txBuf := rfl
@[simp] theorem State.pushResult_txLen (r : HostResult) : (s.pushResult r).txLen = s.txLen := rfl
@[simp] theorem State.pushResult_sess (r : HostResult) : (s.pushResult r).sess = s.sess := rfl
@[simp] theorem State.pushResult_rxBuf (r : HostResult) : (s.pushResult r).rxBuf = s.rxBuf := rfl
@[simp] theorem State.pushResult_rxLen (r : HostResult) : (s.pushResult r).rxLen = s.rxLen := rfl
@[simp] theorem State.pushResult_success (r : HostResult) : (s.pushResult r).success = s.success := rfl
@[simp] theorem State.pushResult_errKind (r : HostResult) : (s.pushResult r).errKind = s.errKind := rfl
@[simp] theorem State.pushResult_vLen (r : HostResult) : (s.pushResult r).vLen = s.vLen := rfl
@[simp] theorem State.pushResult_vCrc (r : HostResult) : (s.pushResult r).vCrc = s.vCrc := rfl
@[simp] theorem State.pushResult_vFc (r : HostResult) : (s.pushResult r).vFc = s.vFc := rfl
@[simp] theorem State.pushResult_valid (r : HostResult) : (s.pushResult r).valid = s.valid := rfl
@[simp] theorem State.pushResult_shortWritePolicy (r : HostResult) : (s.pushResult r).shortWritePolicy = s.shortWritePolicy := rfl
@[simp] theorem State.pushResult_sendAccepted (r : HostResult) : (s.pushResult r).sendAccepted = s.sendAccepted := rfl
@[simp] theorem State.pushResult_commands (r : HostResult) : (s.pushResult r).commands = s.commands := rfl
@[simp] theorem State.pushResult_writeAnswers (r : HostResult) : (s.pushResult r).writeAnswers = s.writeAnswers := rfl
@[simp] theorem State.pushResult_readAnswers (r : HostResult) : (s.pushResult r).readAnswers = s.readAnswers := rfl
@[simp] theorem State.pushResult_draws (r : HostResult) : (s.pushResult r).draws = s.draws := rfl
@[simp] theorem State.pushResult_wire (r : HostResult) : (s.pushResult r).wire = s.wire := rfl
@[simp] theorem State.pushResult_results (r : HostResult) : (s.pushResult r).results = s.results ++ [r] := rfl

/-! `refuse` -/

@[simp] theorem State.refuse_crc (r : RefuseReason) : (s.refuse r).crc = s.crc := rfl
@[simp] theorem State.refuse_txBuf (r : RefuseReason) : (s.refuse r).txBuf = s.txBuf := rfl
@[simp] theorem State.refuse_txLen (r : RefuseReason) : (s.refuse r).txLen = s.txLen := rfl
@[simp] theorem State.refuse_sess (r : RefuseReason) : (s.refuse r).sess = s.sess := rfl
@[simp] theorem State.refuse_rxBuf (r : RefuseReason) : (s.refuse r).rxBuf = s.rxBuf := rfl
@[simp] theorem State.refuse_rxLen (r : RefuseReason) : (s.refuse r).rxLen = s.rxLen := rfl
@[simp] theorem State.refuse_success (r : RefuseReason) : (s.refuse r).success = s.success := rfl
@[simp] theorem State.refuse_errKind (r : RefuseReason) : (s.refuse r).errKind = s.errKind := rfl
@[simp] theorem State.refuse_vLen (r : RefuseReason) : (s.refuse r).vLen = s.vLen := rfl
@[simp] theorem State.refuse_vCrc (r : RefuseReason) : (s.refuse r).vCrc = s.vCrc := rfl
@[simp] theorem State.refuse_vFc (r : RefuseReason) : (s.refuse r).vFc = s.vFc := rfl
@[simp] theorem State.refuse_valid (r : RefuseReason) : (s.refuse r).valid = s.valid := rfl
@[simp] theorem State.refuse_shortWritePolicy (r : RefuseReason) : (s.refuse r).shortWritePolicy = s.shortWritePolicy := rfl
@[simp] theorem State.refuse_sendAccepted (r : RefuseReason) : (s.refuse r).sendAccepted = s.sendAccepted := rfl
@[simp] theorem State.refuse_commands (r : RefuseReason) : (s.refuse r).commands = s.commands := rfl
@[simp] theorem State.refuse_writeAnswers (r : RefuseReason) : (s.refuse r).writeAnswers = s.writeAnswers := rfl
@[simp] theorem State.refuse_readAnswers (r : RefuseReason) : (s.refuse r).readAnswers = s.readAnswers := rfl
@[simp] theorem State.refuse_draws (r : RefuseReason) : (s.refuse r).draws = s.draws := rfl
@[simp] theorem State.refuse_wire (r : RefuseReason) : (s.refuse r).wire = s.wire := rfl
@[simp] theorem State.refuse_results (r : RefuseReason) : (s.refuse r).results = s.results ++ [.refused r] := rfl

/-! `logWire` -/

@[simp] theorem State.logWire_crc (e : WireEvent) : (s.logWire e).crc = s.crc := rfl
@[simp] theorem State.logWire_txBuf (e : WireEvent) : (s.logWire e).txBuf = s.txBuf := rfl
@[simp] theorem State.logWire_txLen (e : WireEvent) : (s.logWire e).txLen = s.txLen := rfl
@[simp] theorem State.logWire_sess (e : WireEvent) : (s.logWire e).sess = s.sess := rfl
@[simp] theorem State.logWire_rxBuf (e : WireEvent) : (s.logWire e).rxBuf = s.rxBuf := rfl
@[simp] theorem State.logWire_rxLen (e : WireEvent) : (s.logWire e).rxLen = s.rxLen := rfl
@[simp] theorem State.logWire_success (e : WireEvent) : (s.logWire e).success = s.success := rfl
@[simp] theorem State.logWire_errKind (e : WireEvent) : (s.logWire e).errKind = s.errKind := rfl
@[simp] theorem State.logWire_vLen (e : WireEvent) : (s.logWire e).vLen = s.vLen := rfl
@[simp] theorem State.logWire_vCrc (e : WireEvent) : (s.logWire e).vCrc = s.vCrc := rfl
@[simp] theorem State.logWire_vFc (e : WireEvent) : (s.logWire e).vFc = s.vFc := rfl
@[simp] theorem State.logWire_valid (e : WireEvent) : (s.logWire e).valid = s.valid := rfl
@[simp] theorem State.logWire_shortWritePolicy (e : WireEvent) : (s.logWire e).shortWritePolicy = s.shortWritePolicy := rfl
@[simp] theorem State.logWire_sendAccepted (e : WireEvent) : (s.logWire e).sendAccepted = s.sendAccepted := rfl
@[simp] theorem State.logWire_commands (e : WireEvent) : (s.logWire e).commands = s.commands := rfl
@[simp] theorem State.logWire_writeAnswers (e : WireEvent) : (s.logWire e).writeAnswers = s.writeAnswers := rfl
@[simp] theorem State.logWire_readAnswers (e : WireEvent) : (s.logWire e).readAnswers = s.readAnswers := rfl
@[simp] theorem State.logWire_draws (e : WireEvent) : (s.logWire e).draws = s.draws := rfl
@[simp] theorem State.logWire_wire (e : WireEvent) : (s.logWire e).wire = s.wire ++ [e] := rfl
@[simp] theorem State.logWire_results (e : WireEvent) : (s.logWire e).results = s.results := rfl

/-! `putFrame` -/

@[simp] theorem State.putFrame_crc (f : List Byte) : (s.putFrame f).crc = s.crc := rfl
@[simp] theorem State.putFrame_txBuf (f : List Byte) : (s.putFrame f).txBuf = s.txBuf.fill Config.txMax f := rfl
@[simp] theorem State.putFrame_txLen (f : List Byte) : (s.putFrame f).txLen = BitVec.ofNat 4 f.length := rfl
@[simp] theorem State.putFrame_sess (f : List Byte) : (s.putFrame f).sess = s.sess := rfl
@[simp] theorem State.putFrame_rxBuf (f : List Byte) : (s.putFrame f).rxBuf = s.rxBuf := rfl
@[simp] theorem State.putFrame_rxLen (f : List Byte) : (s.putFrame f).rxLen = s.rxLen := rfl
@[simp] theorem State.putFrame_success (f : List Byte) : (s.putFrame f).success = s.success := rfl
@[simp] theorem State.putFrame_errKind (f : List Byte) : (s.putFrame f).errKind = s.errKind := rfl
@[simp] theorem State.putFrame_vLen (f : List Byte) : (s.putFrame f).vLen = s.vLen := rfl
@[simp] theorem State.putFrame_vCrc (f : List Byte) : (s.putFrame f).vCrc = s.vCrc := rfl
@[simp] theorem State.putFrame_vFc (f : List Byte) : (s.putFrame f).vFc = s.vFc := rfl
@[simp] theorem State.putFrame_valid (f : List Byte) : (s.putFrame f).valid = s.valid := rfl
@[simp] theorem State.putFrame_shortWritePolicy (f : List Byte) : (s.putFrame f).shortWritePolicy = s.shortWritePolicy := rfl
@[simp] theorem State.putFrame_sendAccepted (f : List Byte) : (s.putFrame f).sendAccepted = s.sendAccepted := rfl
@[simp] theorem State.putFrame_commands (f : List Byte) : (s.putFrame f).commands = s.commands := rfl
@[simp] theorem State.putFrame_writeAnswers (f : List Byte) : (s.putFrame f).writeAnswers = s.writeAnswers := rfl
@[simp] theorem State.putFrame_readAnswers (f : List Byte) : (s.putFrame f).readAnswers = s.readAnswers := rfl
@[simp] theorem State.putFrame_draws (f : List Byte) : (s.putFrame f).draws = s.draws := rfl
@[simp] theorem State.putFrame_wire (f : List Byte) : (s.putFrame f).wire = s.wire := rfl
@[simp] theorem State.putFrame_results (f : List Byte) : (s.putFrame f).results = s.results := rfl

/-! `putResponse` -/

@[simp] theorem State.putResponse_crc (r : ExchangeRecord) : (s.putResponse r).crc = s.crc := rfl
@[simp] theorem State.putResponse_txBuf (r : ExchangeRecord) : (s.putResponse r).txBuf = s.txBuf := rfl
@[simp] theorem State.putResponse_txLen (r : ExchangeRecord) : (s.putResponse r).txLen = s.txLen := rfl
@[simp] theorem State.putResponse_sess (r : ExchangeRecord) : (s.putResponse r).sess = s.sess := rfl
@[simp] theorem State.putResponse_rxBuf (r : ExchangeRecord) : (s.putResponse r).rxBuf = s.rxBuf.fill Config.rxMax r.resp := rfl
@[simp] theorem State.putResponse_rxLen (r : ExchangeRecord) : (s.putResponse r).rxLen = BitVec.ofNat 4 r.resp.length := rfl
@[simp] theorem State.putResponse_success (r : ExchangeRecord) : (s.putResponse r).success = r.success := rfl
@[simp] theorem State.putResponse_errKind (r : ExchangeRecord) : (s.putResponse r).errKind = r.errKind := rfl
@[simp] theorem State.putResponse_vLen (r : ExchangeRecord) : (s.putResponse r).vLen = r.vLen := rfl
@[simp] theorem State.putResponse_vCrc (r : ExchangeRecord) : (s.putResponse r).vCrc = r.vCrc := rfl
@[simp] theorem State.putResponse_vFc (r : ExchangeRecord) : (s.putResponse r).vFc = r.vFc := rfl
@[simp] theorem State.putResponse_valid (r : ExchangeRecord) : (s.putResponse r).valid = r.valid := rfl
@[simp] theorem State.putResponse_shortWritePolicy (r : ExchangeRecord) : (s.putResponse r).shortWritePolicy = s.shortWritePolicy := rfl
@[simp] theorem State.putResponse_sendAccepted (r : ExchangeRecord) : (s.putResponse r).sendAccepted = s.sendAccepted := rfl
@[simp] theorem State.putResponse_commands (r : ExchangeRecord) : (s.putResponse r).commands = s.commands := rfl
@[simp] theorem State.putResponse_writeAnswers (r : ExchangeRecord) : (s.putResponse r).writeAnswers = s.writeAnswers := rfl
@[simp] theorem State.putResponse_readAnswers (r : ExchangeRecord) : (s.putResponse r).readAnswers = s.readAnswers := rfl
@[simp] theorem State.putResponse_draws (r : ExchangeRecord) : (s.putResponse r).draws = s.draws := rfl
@[simp] theorem State.putResponse_wire (r : ExchangeRecord) : (s.putResponse r).wire = s.wire := rfl
@[simp] theorem State.putResponse_results (r : ExchangeRecord) : (s.putResponse r).results = s.results := rfl

/-! `raiseError` -/

@[simp] theorem State.raiseError_crc (k : ErrKind) : (s.raiseError k).crc = s.crc := rfl
@[simp] theorem State.raiseError_txBuf (k : ErrKind) : (s.raiseError k).txBuf = s.txBuf := rfl
@[simp] theorem State.raiseError_txLen (k : ErrKind) : (s.raiseError k).txLen = s.txLen := rfl
@[simp] theorem State.raiseError_sess (k : ErrKind) : (s.raiseError k).sess = s.sess := rfl
@[simp] theorem State.raiseError_rxBuf (k : ErrKind) : (s.raiseError k).rxBuf = s.rxBuf.fill Config.rxMax [] := rfl
@[simp] theorem State.raiseError_rxLen (k : ErrKind) : (s.raiseError k).rxLen = 0 := rfl
@[simp] theorem State.raiseError_success (k : ErrKind) : (s.raiseError k).success = false := rfl
@[simp] theorem State.raiseError_errKind (k : ErrKind) : (s.raiseError k).errKind = k := rfl
@[simp] theorem State.raiseError_vLen (k : ErrKind) : (s.raiseError k).vLen = false := rfl
@[simp] theorem State.raiseError_vCrc (k : ErrKind) : (s.raiseError k).vCrc = false := rfl
@[simp] theorem State.raiseError_vFc (k : ErrKind) : (s.raiseError k).vFc = false := rfl
@[simp] theorem State.raiseError_valid (k : ErrKind) : (s.raiseError k).valid = false := rfl
@[simp] theorem State.raiseError_shortWritePolicy (k : ErrKind) : (s.raiseError k).shortWritePolicy = s.shortWritePolicy := rfl
@[simp] theorem State.raiseError_sendAccepted (k : ErrKind) : (s.raiseError k).sendAccepted = s.sendAccepted := rfl
@[simp] theorem State.raiseError_commands (k : ErrKind) : (s.raiseError k).commands = s.commands := rfl
@[simp] theorem State.raiseError_writeAnswers (k : ErrKind) : (s.raiseError k).writeAnswers = s.writeAnswers := rfl
@[simp] theorem State.raiseError_readAnswers (k : ErrKind) : (s.raiseError k).readAnswers = s.readAnswers := rfl
@[simp] theorem State.raiseError_draws (k : ErrKind) : (s.raiseError k).draws = s.draws := rfl
@[simp] theorem State.raiseError_wire (k : ErrKind) : (s.raiseError k).wire = s.wire := rfl
@[simp] theorem State.raiseError_results (k : ErrKind) : (s.raiseError k).results = s.results := rfl

/-! `resetBlock` -/

@[simp] theorem State.resetBlock_crc : s.resetBlock.crc = Config.crcInit := rfl
@[simp] theorem State.resetBlock_txBuf : s.resetBlock.txBuf = [] := rfl
@[simp] theorem State.resetBlock_txLen : s.resetBlock.txLen = 0 := rfl
@[simp] theorem State.resetBlock_sess : s.resetBlock.sess = .idle := rfl
@[simp] theorem State.resetBlock_rxBuf : s.resetBlock.rxBuf = [] := rfl
@[simp] theorem State.resetBlock_rxLen : s.resetBlock.rxLen = 0 := rfl
@[simp] theorem State.resetBlock_success : s.resetBlock.success = false := rfl
@[simp] theorem State.resetBlock_errKind : s.resetBlock.errKind = .noError := rfl
@[simp] theorem State.resetBlock_vLen : s.resetBlock.vLen = false := rfl
@[simp] theorem State.resetBlock_vCrc : s.resetBlock.vCrc = false := rfl
@[simp] theorem State.resetBlock_vFc : s.resetBlock.vFc = false := rfl
@[simp] theorem State.resetBlock_valid : s.resetBlock.valid = false := rfl
@[simp] theorem State.resetBlock_shortWritePolicy : s.resetBlock.shortWritePolicy = s.shortWritePolicy := rfl
@[simp] theorem State.resetBlock_sendAccepted : s.resetBlock.sendAccepted = false := rfl
@[simp] theorem State.resetBlock_commands : s.resetBlock.commands = s.commands := rfl
@[simp] theorem State.resetBlock_writeAnswers : s.resetBlock.writeAnswers = s.writeAnswers := rfl
@[simp] theorem State.resetBlock_readAnswers : s.resetBlock.readAnswers = s.readAnswers := rfl
@[simp] theorem State.resetBlock_draws : s.resetBlock.draws = s.draws := rfl
@[simp] theorem State.resetBlock_wire : s.resetBlock.wire = s.wire := rfl
@[simp] theorem State.resetBlock_results : s.resetBlock.results = s.results := rfl

/-! `popCommand` -/

@[simp] theorem State.popCommand_crc : s.popCommand.crc = s.crc := rfl
@[simp] theorem State.popCommand_txBuf : s.popCommand.txBuf = s.txBuf := rfl
@[simp] theorem State.popCommand_txLen : s.popCommand.txLen = s.txLen := rfl
@[simp] theorem State.popCommand_sess : s.popCommand.sess = s.sess := rfl
@[simp] theorem State.popCommand_rxBuf : s.popCommand.rxBuf = s.rxBuf := rfl
@[simp] theorem State.popCommand_rxLen : s.popCommand.rxLen = s.rxLen := rfl
@[simp] theorem State.popCommand_success : s.popCommand.success = s.success := rfl
@[simp] theorem State.popCommand_errKind : s.popCommand.errKind = s.errKind := rfl
@[simp] theorem State.popCommand_vLen : s.popCommand.vLen = s.vLen := rfl
@[simp] theorem State.popCommand_vCrc : s.popCommand.vCrc = s.vCrc := rfl
@[simp] theorem State.popCommand_vFc : s.popCommand.vFc = s.vFc := rfl
@[simp] theorem State.popCommand_valid : s.popCommand.valid = s.valid := rfl
@[simp] theorem State.popCommand_shortWritePolicy : s.popCommand.shortWritePolicy = s.shortWritePolicy := rfl
@[simp] theorem State.popCommand_sendAccepted : s.popCommand.sendAccepted = s.sendAccepted := rfl
@[simp] theorem State.popCommand_commands : s.popCommand.commands = s.commands.tail := rfl
@[simp] theorem State.popCommand_writeAnswers : s.popCommand.writeAnswers = s.writeAnswers := rfl
@[simp] theorem State.popCommand_readAnswers : s.popCommand.readAnswers = s.readAnswers := rfl
@[simp] theorem State.popCommand_draws : s.popCommand.draws = s.draws := rfl
@[simp] theorem State.popCommand_wire : s.popCommand.wire = s.wire := rfl
@[simp] theorem State.popCommand_results : s.popCommand.results = s.results := rfl

/-! `popWrite` -/

@[simp] theorem State.popWrite_crc : s.popWrite.crc = s.crc := rfl
@[simp] theorem State.popWrite_txBuf : s.popWrite.txBuf = s.txBuf := rfl
@[simp] theorem State.popWrite_txLen : s.popWrite.txLen = s.txLen := rfl
@[simp] theorem State.popWrite_sess : s.popWrite.sess = s.sess := rfl
@[simp] theorem State.popWrite_rxBuf : s.popWrite.rxBuf = s.rxBuf := rfl
@[simp] theorem State.popWrite_rxLen : s.popWrite.rxLen = s.rxLen := rfl
@[simp] theorem State.popWrite_success : s.popWrite.success = s.success := rfl
@[simp] theorem State.popWrite_errKind : s.popWrite.errKind = s.errKind := rfl
@[simp] theorem State.popWrite_vLen : s.popWrite.vLen = s.vLen := rfl
@[simp] theorem State.popWrite_vCrc : s.popWrite.vCrc = s.vCrc := rfl
@[simp] theorem State.popWrite_vFc : s.popWrite.vFc = s.vFc := rfl
@[simp] theorem State.popWrite_valid : s.popWrite.valid = s.valid := rfl
@[simp] theorem State.popWrite_shortWritePolicy : s.popWrite.shortWritePolicy = s.shortWritePolicy := rfl
@[simp] theorem State.popWrite_sendAccepted : s.popWrite.sendAccepted = s.sendAccepted := rfl
@[simp] theorem State.popWrite_commands : s.popWrite.commands = s.commands := rfl
@[simp] theorem State.popWrite_writeAnswers : s.popWrite.writeAnswers = s.writeAnswers.tail := rfl
@[simp] theorem State.popWrite_readAnswers : s.popWrite.readAnswers = s.readAnswers := rfl
@[simp] theorem State.popWrite_draws : s.popWrite.draws = if s.writeAnswers.isEmpty then s.draws + 1 else s.draws := rfl
@[simp] theorem State.popWrite_wire : s.popWrite.wire = s.wire := rfl
@[simp] theorem State.popWrite_results : s.popWrite.results = s.results := rfl

/-! `popRead` -/

@[simp] theorem State.popRead_crc : s.popRead.crc = s.crc := rfl
@[simp] theorem State.popRead_txBuf : s.popRead.txBuf = s.txBuf := rfl
@[simp] theorem State.popRead_txLen : s.popRead.txLen = s.txLen := rfl
@[simp] theorem State.popRead_sess : s.popRead.sess = s.sess := rfl
@[simp] theorem State.popRead_rxBuf : s.popRead.rxBuf = s.rxBuf := rfl
@[simp] theorem State.popRead_rxLen : s.popRead.rxLen = s.rxLen := rfl
@[simp] theorem State.popRead_success : s.popRead.success = s.success := rfl
@[simp] theorem State.popRead_errKind : s.popRead.errKind = s.errKind := rfl
@[simp] theorem State.popRead_vLen : s.popRead.vLen = s.vLen := rfl
@[simp] theorem State.popRead_vCrc : s.popRead.vCrc = s.vCrc := rfl
@[simp] theorem State.popRead_vFc : s.popRead.vFc = s.vFc := rfl
@[simp] theorem State.popRead_valid : s.popRead.valid = s.valid := rfl
@[simp] theorem State.popRead_shortWritePolicy : s.popRead.shortWritePolicy = s.shortWritePolicy := rfl
@[simp] theorem State.popRead_sendAccepted : s.popRead.sendAccepted = s.sendAccepted := rfl
@[simp] theorem State.popRead_commands : s.popRead.commands = s.commands := rfl
@[simp] theorem State.popRead_writeAnswers : s.popRead.writeAnswers = s.writeAnswers := rfl
@[simp] theorem State.popRead_readAnswers : s.popRead.readAnswers = s.readAnswers.tail := rfl
@[simp] theorem State.popRead_draws : s.popRead.draws = if s.readAnswers.isEmpty then s.draws + 1 else s.draws := rfl
@[simp] theorem State.popRead_wire : s.popRead.wire = s.wire := rfl
@[simp] theorem State.popRead_results : s.popRead.results = s.results := rfl

/-! `chanWrite` -/

@[simp] theorem State.chanWrite_crc (f : List Byte) : (s.chanWrite f).crc = s.crc := rfl
@[simp] theorem State.chanWrite_txBuf (f : List Byte) : (s.chanWrite f).txBuf = s.txBuf := rfl
@[simp] theorem State.chanWrite_txLen (f : List Byte) : (s.chanWrite f).txLen = s.txLen := rfl
@[simp] theorem State.chanWrite_sess (f : List Byte) : (s.chanWrite f).sess = s.sess := rfl
@[simp] theorem State.chanWrite_rxBuf (f : List Byte) : (s.chanWrite f).rxBuf = s.rxBuf := rfl
@[simp] theorem State.chanWrite_rxLen (f : List Byte) : (s.chanWrite f).rxLen = s.rxLen := rfl
@[simp] theorem State.chanWrite_success (f : List Byte) : (s.chanWrite f).success = s.success := rfl
@[simp] theorem State.chanWrite_errKind (f : List Byte) : (s.chanWrite f).errKind = s.errKind := rfl
@[simp] theorem State.chanWrite_vLen (f : List Byte) : (s.chanWrite f).vLen = s.vLen := rfl
@[simp] theorem State.chanWrite_vCrc (f : List Byte) : (s.chanWrite f).vCrc = s.vCrc := rfl
@[simp] theorem State.chanWrite_vFc (f : List Byte) : (s.chanWrite f).vFc = s.vFc := rfl
@[simp] theorem State.chanWrite_valid (f : List Byte) : (s.chanWrite f).valid = s.valid := rfl
@[simp] theorem State.chanWrite_shortWritePolicy (f : List Byte) : (s.chanWrite f).shortWritePolicy = s.shortWritePolicy := rfl
@[simp] theorem State.chanWrite_sendAccepted (f : List Byte) : (s.chanWrite f).sendAccepted = false := rfl
@[simp] theorem State.chanWrite_commands (f : List Byte) : (s.chanWrite f).commands = s.commands := rfl
@[simp] theorem State.chanWrite_writeAnswers (f : List Byte) : (s.chanWrite f).writeAnswers = s.writeAnswers.tail := rfl
@[simp] theorem State.chanWrite_readAnswers (f : List Byte) : (s.chanWrite f).readAnswers = s.readAnswers := rfl
@[simp] theorem State.chanWrite_draws (f : List Byte) : (s.chanWrite f).draws = if s.writeAnswers.isEmpty then s.draws + 1 else s.draws := rfl
@[simp] theorem State.chanWrite_wire (f : List Byte) : (s.chanWrite f).wire = s.wire ++ [.write f] := rfl
@[simp] theorem State.chanWrite_results (f : List Byte) : (s.chanWrite f).results = s.results := rfl

/-! `failExchange` -/

@[simp] theorem State.failExchange_crc : s.failExchange.crc = s.crc := rfl
@[simp] theorem State.failExchange_txBuf : s.failExchange.txBuf = s.txBuf := rfl
@[simp] theorem State.failExchange_txLen : s.failExchange.txLen = s.txLen := rfl
@[simp] theorem State.failExchange_sess : s.failExchange.sess = .idle := rfl
@[simp] theorem State.failExchange_rxBuf : s.failExchange.rxBuf = s.rxBuf.fill Config.rxMax [] := rfl
@[simp] theorem State.failExchange_rxLen : s.failExchange.rxLen = 0 := rfl
@[simp] theorem State.failExchange_success : s.failExchange.success = false := rfl
@[simp] theorem State.failExchange_errKind : s.failExchange.errKind = .channelIo := rfl
@[simp] theorem State.failExchange_vLen : s.failExchange.vLen = false := rfl
@[simp] theorem State.failExchange_vCrc : s.failExchange.vCrc = false := rfl
@[simp] theorem State.failExchange_vFc : s.failExchange.vFc = false := rfl
@[simp] theorem State.failExchange_valid : s.failExchange.valid = false := rfl
@[simp] theorem State.failExchange_shortWritePolicy : s.failExchange.shortWritePolicy = s.shortWritePolicy := rfl
@[simp] theorem State.failExchange_sendAccepted : s.failExchange.sendAccepted = s.sendAccepted := rfl
@[simp] theorem State.failExchange_commands : s.failExchange.commands = s.commands := rfl
@[simp] theorem State.failExchange_writeAnswers : s.failExchange.writeAnswers = s.writeAnswers := rfl
@[simp] theorem State.failExchange_readAnswers : s.failExchange.readAnswers = s.readAnswers := rfl
@[simp] theorem State.failExchange_draws : s.failExchange.draws = s.draws := rfl
@[simp] theorem State.failExchange_wire : s.failExchange.wire = s.wire := rfl
@[simp] theorem State.failExchange_results : s.failExchange.results = s.results ++ [.okExchange false [] .channelIo] := rfl

/-! `sendRx` -/

@[simp] theorem State.sendRx_crc (r : List Byte) (fc : Option Byte) : (s.sendRx r fc).crc = s.crc := rfl
@[simp] theorem State.sendRx_txBuf (r : List Byte) (fc : Option Byte) : (s.sendRx r fc).txBuf = s.txBuf := rfl
@[simp] theorem State.sendRx_txLen (r : List Byte) (fc : Option Byte) : (s.sendRx r fc).txLen = s.txLen := rfl
@[simp] theorem State.sendRx_sess (r : List Byte) (fc : Option Byte) : (s.sendRx r fc).sess = .idle := rfl
@[simp] theorem State.sendRx_rxBuf (r : List Byte) (fc : Option Byte) : (s.sendRx r fc).rxBuf = s.rxBuf.fill Config.rxMax r := rfl
@[simp] theorem State.sendRx_rxLen (r : List Byte) (fc : Option Byte) : (s.sendRx r fc).rxLen = BitVec.ofNat 4 r.length := rfl
@[simp] theorem State.sendRx_success (r : List Byte) (fc : Option Byte) : (s.sendRx r fc).success = successOf r := rfl
@[simp] theorem State.sendRx_errKind (r : List Byte) (fc : Option Byte) : (s.sendRx r fc).errKind = errKindOf r := rfl
@[simp] theorem State.sendRx_vLen (r : List Byte) (fc : Option Byte) : (s.sendRx r fc).vLen = vLenOf r := rfl
@[simp] theorem State.sendRx_vCrc (r : List Byte) (fc : Option Byte) : (s.sendRx r fc).vCrc = vCrcOf r := rfl
@[simp] theorem State.sendRx_vFc (r : List Byte) (fc : Option Byte) : (s.sendRx r fc).vFc = vFcOf r fc := rfl
@[simp] theorem State.sendRx_valid (r : List Byte) (fc : Option Byte) : (s.sendRx r fc).valid = (vLenOf r && vCrcOf r && vFcOf r fc) := rfl
@[simp] theorem State.sendRx_shortWritePolicy (r : List Byte) (fc : Option Byte) : (s.sendRx r fc).shortWritePolicy = s.shortWritePolicy := rfl
@[simp] theorem State.sendRx_sendAccepted (r : List Byte) (fc : Option Byte) : (s.sendRx r fc).sendAccepted = s.sendAccepted := rfl
@[simp] theorem State.sendRx_commands (r : List Byte) (fc : Option Byte) : (s.sendRx r fc).commands = s.commands := rfl
@[simp] theorem State.sendRx_writeAnswers (r : List Byte) (fc : Option Byte) : (s.sendRx r fc).writeAnswers = s.writeAnswers := rfl
@[simp] theorem State.sendRx_readAnswers (r : List Byte) (fc : Option Byte) : (s.sendRx r fc).readAnswers = s.readAnswers := rfl
@[simp] theorem State.sendRx_draws (r : List Byte) (fc : Option Byte) : (s.sendRx r fc).draws = s.draws := rfl
@[simp] theorem State.sendRx_wire (r : List Byte) (fc : Option Byte) : (s.sendRx r fc).wire = s.wire ++ [.read (.bytes r)] := rfl
@[simp] theorem State.sendRx_results (r : List Byte) (fc : Option Byte) : (s.sendRx r fc).results = s.results ++ [.okExchange (successOf r) r (errKindOf r)] := rfl

/-! `sendRxError` -/

@[simp] theorem State.sendRxError_crc : s.sendRxError.crc = s.crc := rfl
@[simp] theorem State.sendRxError_txBuf : s.sendRxError.txBuf = s.txBuf := rfl
@[simp] theorem State.sendRxError_txLen : s.sendRxError.txLen = s.txLen := rfl
@[simp] theorem State.sendRxError_sess : s.sendRxError.sess = .idle := rfl
@[simp] theorem State.sendRxError_rxBuf : s.sendRxError.rxBuf = s.rxBuf.fill Config.rxMax [] := rfl
@[simp] theorem State.sendRxError_rxLen : s.sendRxError.rxLen = 0 := rfl
@[simp] theorem State.sendRxError_success : s.sendRxError.success = false := rfl
@[simp] theorem State.sendRxError_errKind : s.sendRxError.errKind = .channelIo := rfl
@[simp] theorem State.sendRxError_vLen : s.sendRxError.vLen = false := rfl
@[simp] theorem State.sendRxError_vCrc : s.sendRxError.vCrc = false := rfl
@[simp] theorem State.sendRxError_vFc : s.sendRxError.vFc = false := rfl
@[simp] theorem State.sendRxError_valid : s.sendRxError.valid = false := rfl
@[simp] theorem State.sendRxError_shortWritePolicy : s.sendRxError.shortWritePolicy = s.shortWritePolicy := rfl
@[simp] theorem State.sendRxError_sendAccepted : s.sendRxError.sendAccepted = s.sendAccepted := rfl
@[simp] theorem State.sendRxError_commands : s.sendRxError.commands = s.commands := rfl
@[simp] theorem State.sendRxError_writeAnswers : s.sendRxError.writeAnswers = s.writeAnswers := rfl
@[simp] theorem State.sendRxError_readAnswers : s.sendRxError.readAnswers = s.readAnswers := rfl
@[simp] theorem State.sendRxError_draws : s.sendRxError.draws = s.draws := rfl
@[simp] theorem State.sendRxError_wire : s.sendRxError.wire = s.wire ++ [.read .ioerror] := rfl
@[simp] theorem State.sendRxError_results : s.sendRxError.results = s.results ++ [.okExchange false [] .channelIo] := rfl

end Sys2Proof.Machine
end

