-- ==== Sys2Proof/Laws/Ops.lean ====
section
/-! SUPPORT. What the shared operations can do: buffer reads, fills, the refusals, the channel. -/

namespace Sys2Proof.Machine

/-! Buffer reads -/

theorem State.readByte_ok {s : State} {sp : Space} {a : Nat} {b : Byte} :
    s.readByte sp a = .ok b ↔ a < sp.size ∧ (s.mem sp).read a = some b := by
  unfold State.readByte
  split
  · rename_i h
    cases hr : (s.mem sp).read a <;> simp [h]
  · rename_i h; simp [h]

/-- Everything a multi-byte read that succeeds says. -/
theorem State.readBytes_ok {s : State} {sp : Space} {a n : Nat} {bs : List Byte} :
    s.readBytes sp a n = .ok bs ↔
      bs.length = n ∧ ∀ i, i < n → a + i < sp.size ∧ (s.mem sp).read (a + i) = bs[i]? := by
  induction n generalizing a bs with
  | zero =>
    simp only [State.readBytes, Except.ok.injEq, List.length_eq_zero_iff]
    constructor
    · rintro rfl; exact ⟨rfl, by omega⟩
    · rintro ⟨rfl, _⟩; rfl
  | succ n ih =>
    unfold State.readBytes
    constructor
    · intro h
      split at h
      · cases h
      · rename_i b hb
        split at h
        · cases h
        · rename_i bs' hbs
          cases h
          obtain ⟨hl, hr⟩ := ih.1 hbs
          obtain ⟨h1, h2⟩ := State.readByte_ok.1 hb
          refine ⟨by simp [hl], fun i hi => ?_⟩
          cases i with
          | zero => simpa using ⟨h1, h2⟩
          | succ i =>
            have := hr i (by omega)
            rw [show a + (i + 1) = a + 1 + i by omega]
            simpa using this
    · rintro ⟨hl, hr⟩
      cases bs with
      | nil => simp at hl
      | cons b bs =>
        have h0 := hr 0 (by omega)
        have hb : s.readByte sp a = .ok b := State.readByte_ok.2 (by simpa using h0)
        have hbs : s.readBytes sp (a + 1) n = .ok bs := ih.2 ⟨by simpa using hl, fun i hi => by
          have := hr (i + 1) (by omega)
          rw [show a + 1 + i = a + (i + 1) by omega]
          simpa using this⟩
        rw [hb, hbs]

/-- A buffer that holds the bytes below `len` can be read there. -/
theorem State.readBytes_of_holds {s : State} {sp : Space} {len a n : Nat}
    (h : (s.mem sp).Holds sp.size len) (hn : a + n ≤ len) : ∃ bs, s.readBytes sp a n = .ok bs := by
  induction n generalizing a with
  | zero => exact ⟨[], rfl⟩
  | succ n ih =>
    obtain ⟨bs, hbs⟩ := ih (a := a + 1) (by omega)
    have hs := (h.listed a).2 (by omega)
    obtain ⟨b, hb⟩ := Option.isSome_iff_exists.1 hs
    have := h.bound
    exact ⟨b :: bs, by rw [State.readBytes, State.readByte_ok.2 ⟨by omega, hb⟩, hbs]⟩

/-- Bytes that fill a buffer are read back. -/
theorem State.readBytes_of_fill {s : State} {sp : Space} {bs : List Byte} {m : Memory} (hl : bs.length ≤ sp.size)
    (hm : s.mem sp = m.fill sp.size bs) : s.readBytes sp 0 bs.length = .ok bs := by
  refine State.readBytes_ok.2 ⟨rfl, fun i hi => ⟨by omega, ?_⟩⟩
  rw [hm, Nat.zero_add, Memory.read_fill _ _ _ hl _ (by omega)]

@[simp] theorem Space.size_tx : Space.tx.size = 10 := rfl
@[simp] theorem Space.size_rx : Space.rx.size = 8 := rfl
@[simp] theorem State.mem_tx (s : State) : s.mem .tx = s.txBuf := rfl
@[simp] theorem State.mem_rx (s : State) : s.mem .rx = s.rxBuf := rfl

/-- A read of the first address beyond the fill's addresses is as before. -/
theorem Memory.read_fill_ge (size : Nat) (bs : List Byte) (m : Memory) (hl : bs.length ≤ size) (x : Nat)
    (hx : size ≤ x) : (Memory.fill size bs m).read x = m.read x := by
  simp only [Memory.fill, Memory.read_clearFrom, Memory.read_writeFrom]
  rw [if_neg (by omega), if_neg (by omega)]

/-- Both buffers have the canonical form after reset. -/
theorem State.reset_wf : State.reset.txBuf.wf Config.txMax ∧ State.reset.rxBuf.wf Config.rxMax := by decide

/-- A frame of at most 10 bytes is read back from `TXBUF`. -/
theorem State.frame_putFrame (s : State) (f : List Byte) (hl : f.length ≤ 10) : (s.putFrame f).frame = .ok f := by
  have hlen : (BitVec.ofNat 4 f.length).toNat = f.length := by
    rw [BitVec.toNat_ofNat]; omega
  rw [State.frame, State.putFrame_txLen, hlen]
  exact State.readBytes_of_fill (m := s.txBuf) hl rfl

/-- Reading depends on the buffer alone. -/
theorem State.readByte_congr {s t : State} {sp : Space} (h : s.mem sp = t.mem sp) (a : Nat) :
    s.readByte sp a = t.readByte sp a := by
  simp [State.readByte, h]

theorem State.readBytes_congr {s t : State} {sp : Space} (h : s.mem sp = t.mem sp) (a n : Nat) :
    s.readBytes sp a n = t.readBytes sp a n := by
  induction n generalizing a with
  | zero => rfl
  | succ n ih => simp [State.readBytes, State.readByte_congr h, ih]

theorem State.frame_congr {s t : State} (hb : s.txBuf = t.txBuf) (hl : s.txLen = t.txLen) : s.frame = t.frame := by
  rw [State.frame, State.frame, hl]; exact State.readBytes_congr (sp := .tx) hb _ _

theorem State.response_congr {s t : State} (hb : s.rxBuf = t.rxBuf) (hl : s.rxLen = t.rxLen) :
    s.response = t.response := by
  rw [State.response, State.response, hl]; exact State.readBytes_congr (sp := .rx) hb _ _

theorem State.requestFc_congr {s t : State} (hb : s.txBuf = t.txBuf) (hl : s.txLen = t.txLen) :
    s.requestFc = t.requestFc := by
  rw [State.requestFc, State.requestFc, hl, State.readByte_congr (sp := .tx) hb]

/-- Everything `requestFc` can answer. -/
theorem State.requestFc_ok {s : State} {fc : Option Byte} :
    s.requestFc = .ok fc ↔
      s.txLen = 0 ∧ fc = none ∨ s.txLen ≠ 0 ∧ (s.txBuf.read 1).isSome = true ∧ fc = s.txBuf.read 1 := by
  unfold State.requestFc State.readByte
  by_cases h : s.txLen = 0
  · simpa [h] using eq_comm
  · replace h : ¬ s.txLen = 0#4 := h
    cases hr : s.txBuf.read 1
    · simp [h, hr]
    · simpa [h, hr] using eq_comm

theorem State.requestFc_error {s : State} {f : Fault} :
    s.requestFc = .error f ↔ f = .noValue .tx 1 ∧ s.txLen ≠ 0 ∧ s.txBuf.read 1 = none := by
  unfold State.requestFc State.readByte
  by_cases h : s.txLen = 0
  · simp [h]
  · replace h : ¬ s.txLen = 0#4 := h
    cases hr : s.txBuf.read 1
    · simpa [h, hr] using eq_comm
    · simp [h, hr]

/-! Refusals -/

theorem State.unlessBusy_idle {s : State} (h : s.sess = .idle) (k : Host.Outcome State Fault Refusal) :
    s.unlessBusy k = k := by
  simp [State.unlessBusy, h]

theorem State.unlessBusy_await {s : State} (h : s.sess = .await) (k : Host.Outcome State Fault Refusal) :
    s.unlessBusy k = .next (s.refuse .busy) := by
  simp [State.unlessBusy, h]

/-- Everything `unlessBusy` can do. -/
theorem State.unlessBusy_cases (s : State) (k : Host.Outcome State Fault Refusal) :
    s.sess = .await ∧ s.unlessBusy k = .next (s.refuse .busy) ∨ s.sess = .idle ∧ s.unlessBusy k = k := by
  cases h : s.sess
  · exact .inr ⟨rfl, State.unlessBusy_idle h k⟩
  · exact .inl ⟨rfl, State.unlessBusy_await h k⟩

/-! The channel -/

/-- Everything the step `SEND.TX` can do. -/
theorem State.sendTx_cases (s : State) (f : List Byte) :
    s.writeOutcome f = .written ∧ s.sendTx f = { s.chanWrite f with sess := .await } ∨
    s.writeOutcome f = .ioerror ∧ s.sendTx f = (s.chanWrite f).failExchange := by
  unfold State.sendTx
  cases s.writeOutcome f
  · exact .inl ⟨rfl, rfl⟩
  · exact .inr ⟨rfl, rfl⟩

/-- The next answer to a write, placed or free, is the one a write takes. -/
theorem State.NextWrite.eq {s : State} {a : WriteAnswer} {as : List WriteAnswer} {d : Nat} (h : s.NextWrite a as d) :
    s.writeAnswer = a ∧ s.popWrite = { s with writeAnswers := as, draws := d } := by
  rcases h with ⟨h, rfl⟩ | ⟨h, rfl, rfl, rfl⟩ <;> simp [State.writeAnswer, State.popWrite, h]

/-- The next answer to a read, placed or free, is the one a read takes, cut to 8 bytes. -/
theorem State.NextRead.eq {s : State} {a : ReadAnswer} {as : List ReadAnswer} {d : Nat} (h : s.NextRead a as d) :
    s.readAnswer = cutAnswer a ∧ s.popRead = { s with readAnswers := as, draws := d } := by
  rcases h with ⟨h, rfl⟩ | ⟨h, rfl, rfl, rfl⟩ <;> simp [State.readAnswer, State.popRead, h]

/-- Everything `SHORT_WRITE_POLICY` can make of an answer (43_session R162, log 7, 24). -/
theorem writeOutcomeOf_cases (p : ShortWritePolicy) (len : Nat) (a : WriteAnswer) :
    writeOutcomeOf p len a = .written ∧ TakenAsWritten p len a ∨ writeOutcomeOf p len a = .ioerror ∧ TakenAsError p len a := by
  cases a with
  | ioerror => exact .inr ⟨rfl, .inl rfl⟩
  | count n =>
    by_cases h : len ≤ n
    · exact .inl ⟨by simp [writeOutcomeOf, h], n, rfl, .inl h⟩
    · cases p
      · exact .inr ⟨by simp [writeOutcomeOf, h], .inr ⟨n, rfl, by omega, rfl⟩⟩
      · exact .inl ⟨by simp [writeOutcomeOf, h], n, rfl, .inr rfl⟩

theorem TakenAsWritten.eq {p : ShortWritePolicy} {len : Nat} {a : WriteAnswer} (h : TakenAsWritten p len a) :
    writeOutcomeOf p len a = .written := by
  obtain ⟨n, rfl, h | rfl⟩ := h <;> simp [writeOutcomeOf, *]

theorem TakenAsError.eq {p : ShortWritePolicy} {len : Nat} {a : WriteAnswer} (h : TakenAsError p len a) :
    writeOutcomeOf p len a = .ioerror := by
  obtain rfl | ⟨n, rfl, h, rfl⟩ := h
  · rfl
  · have : ¬ len ≤ n := by omega
    simp [writeOutcomeOf, this]

@[simp] theorem readCut_length_le (bs : List Byte) : (readCut bs).length ≤ 8 := by
  simp only [readCut, List.length_take, Config.rxMax]; omega

theorem readCut_of_le {bs : List Byte} (h : bs.length ≤ 8) : readCut bs = bs := List.take_of_length_le h

/-- A read never answers more than 8 bytes. -/
theorem State.readAnswer_le {s : State} {r : List Byte} (h : s.readAnswer = .bytes r) : r.length ≤ 8 := by
  unfold State.readAnswer cutAnswer at h
  split at h
  · cases h
  · cases h; exact readCut_length_le _

/-! The frame encoder -/

@[simp] theorem frameLength_u16 : frameLength .u16 = 8 := rfl
@[simp] theorem frameLength_u32 : frameLength .u32 = 10 := rfl
@[simp] theorem functionCode_u16 : functionCode .u16 = 0x06 := rfl
@[simp] theorem functionCode_u32 : functionCode .u32 = 0x03 := rfl

theorem length_encodeFrame (u i x : Byte) (d : DType) (v : Word32) :
    (encodeFrame u i x d v).length = frameLength d := by
  cases d <;> rfl

theorem length_encodeFrame_le (u i x : Byte) (d : DType) (v : Word32) : (encodeFrame u i x d v).length ≤ 10 := by
  cases d <;> simp [length_encodeFrame]

theorem request16_eq (u i x : Byte) (v : Word16) (lo hi : Byte) :
    request16 u i x v lo hi = [u, 0x06, i, x, hi8 v, lo8 v, lo, hi] := rfl

theorem request32_eq (u i x : Byte) (v : Word32) (lo hi : Byte) :
    request32 u i x v lo hi =
      [u, 0x03, i, x, v.extractLsb' 24 8, v.extractLsb' 16 8, v.extractLsb' 8 8, v.extractLsb' 0 8, lo, hi] := rfl

end Sys2Proof.Machine
end

