-- ==== Sys2Proof/Laws/Decode.lean ====
section
/-! SUPPORT. The decoder of command words as one chain of cases, and what well-formedness says. -/

namespace Sys2Proof

open Machine

/-- The order of checks of a command word (30_encoding R86), by its operation code. -/
theorem decodeCommand_eq (cw raw : Word64) :
    decodeCommand cw raw =
      if cw.extractLsb' 60 4 = 1#4 then
        if cw.extractLsb' 0 60 = 0#60 then .ok .crcInit else .error .badOp
      else if cw.extractLsb' 60 4 = 2#4 then
        if cw.extractLsb' 0 52 = 0#52 then .ok (.crcUpdate (cw.extractLsb' 52 8)) else .error .badOp
      else if cw.extractLsb' 60 4 = 3#4 then
        if cw.extractLsb' 0 60 = 0#60 then .ok .crcRead else .error .badOp
      else if cw.extractLsb' 60 4 = 4#4 then
        if cw.extractLsb' 33 3 = 0#3 then
          .ok (.enc (cw.extractLsb' 52 8) (cw.extractLsb' 44 8) (cw.extractLsb' 36 8)
            (dtypeOfBit (cw.getLsbD 32)) (cw.extractLsb' 0 32))
        else .error .badOp
      else if cw.extractLsb' 60 4 = 5#4 then
        if cw.extractLsb' 0 60 = 0#60 then .ok .send else .error .badOp
      else if cw.extractLsb' 60 4 = 6#4 then
        if cw.extractLsb' 0 56 = 0#56 then
          if (cw.extractLsb' 56 4).toNat ≤ 8 then .ok (.dec (rawBytes (cw.extractLsb' 56 4).toNat raw))
          else .error .badLen
        else .error .badOp
      else if cw.extractLsb' 60 4 = 7#4 then
        if cw.extractLsb' 0 60 = 0#60 then .ok .reset else .error .badOp
      else .error .badOp := by
  have key : ∀ (op : BitVec 4) (a b c d e f g : Except RefuseReason Instr),
      (match op.toNat with
        | 1 => a
        | 2 => b
        | 3 => c
        | 4 => d
        | 5 => e
        | 6 => f
        | 7 => g
        | _ => Except.error .badOp) =
      if op = 1#4 then a else if op = 2#4 then b else if op = 3#4 then c else if op = 4#4 then d
      else if op = 5#4 then e else if op = 6#4 then f else if op = 7#4 then g else .error .badOp := by
    rintro ⟨n, hn⟩
    intros
    interval_cases n <;> rfl
  exact key _ _ _ _ _ _ _ _

/-- What a command word decodes to is a well-formed host command. -/
theorem decodeCommand_ok {cw raw : Word64} {i : Instr} (h : decodeCommand cw raw = .ok i) :
    i = .crcInit ∨ (∃ b, i = .crcUpdate b) ∨ i = .crcRead ∨ (∃ u a x d v, i = .enc u a x d v) ∨ i = .send ∨
      (∃ bs, i = .dec bs ∧ bs.length ≤ 8) ∨ i = .reset := by
  rw [decodeCommand_eq] at h
  repeat' split at h
  all_goals first
    | (cases h; done)
    | (cases h; simp)

theorem wellFormed_dec {bs : List Byte} : (Instr.dec bs).WellFormed ↔ bs.length ≤ 8 := by
  simp [Instr.WellFormed, Instr.wf]

theorem wellFormed_resp {bs : List Byte} : (Instr.resp bs).WellFormed ↔ bs.length ≤ 8 := by
  simp [Instr.WellFormed, Instr.wf]

/-- Reading a request frame gives back its bytes: nothing of a frame is dropped. -/
theorem decodeRequest_ok {f : List Byte} {i : Instr} (h : decodeRequest f = .ok i) :
    (∃ u a x v lo hi, i = .wr16 u a x v lo hi ∧ f = request16 u a x v lo hi) ∨
    ∃ u a x v lo hi, i = .wr32 u a x v lo hi ∧ f = request32 u a x v lo hi := by
  unfold decodeRequest at h
  split at h
  · split at h
    · split at h
      · rename_i hfc
        cases h
        exact .inl ⟨_, _, _, _, _, _, rfl, by simpa [request16, be16] using hfc⟩
      · cases h
    · cases h
  · split at h
    · split at h
      · split at h
        · rename_i hfc
          cases h
          exact .inr ⟨_, _, _, _, _, _, rfl, by simpa [request32] using hfc⟩
        · cases h
      · cases h
    · cases h

theorem decodeRequest_request16 (u a x : Byte) (v : Word16) (lo hi : Byte) :
    decodeRequest (request16 u a x v lo hi) = .ok (.wr16 u a x v lo hi) := by
  simp [request16, be16, decodeRequest]

theorem decodeRequest_request32 (u a x : Byte) (v : Word32) (lo hi : Byte) :
    decodeRequest (request32 u a x v lo hi) = .ok (.wr32 u a x v lo hi) := by
  simp [request32, be32, decodeRequest]

/-- Every frame the encoder builds is a request frame (30_encoding R78). -/
theorem decodeRequest_encodeFrame (u a x : Byte) (d : DType) (v : Word32) :
    ∃ i, decodeRequest (encodeFrame u a x d v) = .ok i := by
  cases d
  · exact ⟨_, decodeRequest_request16 u a x (v.setWidth 16) _ _⟩
  · exact ⟨_, decodeRequest_request32 u a x v _ _⟩

end Sys2Proof
end

