-- ==== Sys2Proof/Laws/PerInstr.lean ====
section
/-! SUPPORT. A law of every instruction as syntax: the port its words go to, and the code that tells it apart there
(30_encoding R76, R77, R79, R85). -/

namespace Sys2Proof.Laws

open Sys2Proof Sys2Proof.Machine

/-- The 4-bit operation code of a host command (30_encoding R85), as the spec's table lists it. -/
def PortCode.opCode : Instr → Option (BitVec 4)
  | .crcInit => some 1
  | .crcUpdate _ => some 2
  | .crcRead => some 3
  | .enc _ _ _ _ _ => some 4
  | .send => some 5
  | .dec _ => some 6
  | .reset => some 7
  | .wr16 _ _ _ _ _ _ => none
  | .wr32 _ _ _ _ _ _ => none
  | .resp _ => none

/-- A host command's word carries its operation code in the top 4 bits; a request frame has 8 bytes with function code
0x06 or 10 bytes with 0x03; only `RESP` goes to the response port, as its own bytes. -/
def PortCode.Statement (i : Instr) : Prop :=
  match encode i with
  | .command cw _ => PortCode.opCode i = some (cw.extractLsb' 60 4)
  | .request bs =>
    PortCode.opCode i = none ∧ (bs.length = 8 ∧ bs[1]? = some 0x06 ∨ bs.length = 10 ∧ bs[1]? = some 0x03)
  | .response bs => i = .resp bs

/-- The top 4 bits of a word are those of its operation code, if its other fields stay below them. -/
theorem opWord_or {op : BitVec 4} {x : Word64} (h : ∀ k, k < 4 → x.getLsbD (60 + k) = false) :
    (opWord op ||| x).extractLsb' 60 4 = op := by
  refine BitVec.eq_of_getLsbD_eq fun k hk => ?_
  simp only [opWord, BitVec.getLsbD_extractLsb', BitVec.getLsbD_or, getLsbD_fieldAt, h k hk]
  have h1 : 60 + k < 64 := by omega
  simp [hk, h1]

theorem PortCode.crcInit : PortCode.Statement .crcInit := by
  simp only [PortCode.Statement, encode]; rfl

theorem PortCode.crcUpdate (byte : Byte) : PortCode.Statement (.crcUpdate byte) := by
  simp only [PortCode.Statement, encode, PortCode.opCode]
  rw [opWord_or]
  intro k hk
  interval_cases k <;> simp

theorem PortCode.crcRead : PortCode.Statement .crcRead := by
  simp only [PortCode.Statement, encode]; rfl

theorem PortCode.enc (unit index subIndex : Byte) (dtype : DType) (value : Word32) :
    PortCode.Statement (.enc unit index subIndex dtype value) := by
  simp only [PortCode.Statement, encode, PortCode.opCode, BitVec.or_assoc]
  rw [opWord_or]
  intro k hk
  interval_cases k <;> simp

theorem PortCode.send : PortCode.Statement .send := by
  simp only [PortCode.Statement, encode]; rfl

theorem PortCode.dec (bytes : List Byte) : PortCode.Statement (.dec bytes) := by
  simp only [PortCode.Statement, encode, PortCode.opCode]
  rw [opWord_or]
  intro k hk
  interval_cases k <;> simp

theorem PortCode.reset : PortCode.Statement .reset := by
  simp only [PortCode.Statement, encode]; rfl

theorem PortCode.wr16 (unit index subIndex : Byte) (value : Word16) (crcLow crcHigh : Byte) :
    PortCode.Statement (.wr16 unit index subIndex value crcLow crcHigh) :=
  ⟨rfl, .inl ⟨rfl, rfl⟩⟩

theorem PortCode.wr32 (unit index subIndex : Byte) (value : Word32) (crcLow crcHigh : Byte) :
    PortCode.Statement (.wr32 unit index subIndex value crcLow crcHigh) :=
  ⟨rfl, .inr ⟨rfl, rfl⟩⟩

theorem PortCode.resp (bytes : List Byte) : PortCode.Statement (.resp bytes) := rfl

end Sys2Proof.Laws
end

