-- ==== Sys2Proof/Tests/Slice0.lean ====
section
/-! SUPPORT. Checks against the spec's own vectors (95_test_vectors), and for every statement with hypotheses a state and
operands that meet them. -/

namespace Sys2Proof.Tests

open Sys2Proof Sys2Proof.Machine

/-- The next state of an outcome, if it is one. -/
def nextOf : Host.Outcome State Fault Refusal → Option State
  | .next s => some s
  | _ => none

/-- The fault of an outcome, if it is one. -/
def faultOf : Host.Outcome State Fault Refusal → Option Fault
  | .fault f => some f
  | _ => none

/-- The stop of an outcome, if it is one. -/
def refusalOf : Host.Outcome State Fault Refusal → Option Refusal
  | .refused r => some r
  | _ => none

/-- `ENC 1, 0, 0, U16, 1` (95 section 1, S7). -/
def frameS7 : List Byte := [0x01, 0x06, 0x00, 0x00, 0x00, 0x01, 0x48, 0x0A]

/-- After `ENC 1, 0, 0, U16, 1` (95 P2 row 1). -/
def encoded : State := State.reset.putFrame frameS7

/-- A `SEND` accepted for it (95 P2 row 2). -/
def accepted : State := { encoded with sendAccepted := true }

/-- Its frame written, the read owed (95 P2 row 2a). -/
def awaiting : State := { encoded with sess := .await }

/-- The state with these commands to issue. -/
def issuing (s : State) (cs : List Command) : State := { s with commands := cs }

/-- A state no run reaches: a length without bytes, for the checks of the fault. -/
def hollow : State := { State.reset with txLen := 8 }

/-! ### Well-formedness: each check refuses a term -/

theorem test_wf_dec : (Instr.dec [0, 1, 2, 3, 4, 5, 6, 7]).wf = true ∧
    (Instr.dec [0, 1, 2, 3, 4, 5, 6, 7, 8]).wf = false := by decide

theorem test_wf_resp : (Instr.resp []).wf = true ∧ (Instr.resp [0, 1, 2, 3, 4, 5, 6, 7]).wf = true ∧
    (Instr.resp [0, 1, 2, 3, 4, 5, 6, 7, 8]).wf = false := by decide

set_option maxRecDepth 20000 in
/-- 95 section 3, first row; its CRC bytes swapped are not its CRC. -/
theorem test_wf_wr16 : (Instr.wr16 0x01 0x00 0x00 1 0x48 0x0A).wf = true ∧
    (Instr.wr16 0x01 0x00 0x00 1 0x0A 0x48).wf = false := by decide

set_option maxRecDepth 20000 in
/-- 95 section 3, byte order of a 32-bit value; one CRC bit wrong. -/
theorem test_wf_wr32 : (Instr.wr32 0x01 0x12 0x34 0x12345678 0x7B 0x45).wf = true ∧
    (Instr.wr32 0x01 0x12 0x34 0x12345678 0x7A 0x45).wf = false := by decide

/-! ### Decoding: words written out from 30_encoding R85, R76, R77 and 95 sections 3, 4, 7 -/

theorem test_decode_crcInit : decode (.command 0x1000000000000000 0) = .ok .crcInit := by decide

theorem test_decode_crcUpdate : decode (.command 0x20A0000000000000 0) = .ok (.crcUpdate 0x0A) := by decide

theorem test_decode_crcRead : decode (.command 0x3000000000000000 0) = .ok .crcRead := by decide

theorem test_decode_enc_u16 : decode (.command 0x401030D000001388 0) = .ok (.enc 1 0x03 0x0D .u16 5000) := by decide

theorem test_decode_enc_u32 : decode (.command 0x4F720011000186A0 0) = .ok (.enc 247 0x20 0x01 .u32 100000) := by decide

theorem test_decode_send : decode (.command 0x5000000000000000 0) = .ok .send := by decide

theorem test_decode_dec : decode (.command 0x6500000000000000 0x018602C3A1000000) =
    .ok (.dec [0x01, 0x86, 0x02, 0xC3, 0xA1]) := by decide

/-- No byte of `RAW` counts when `len` is 0. -/
theorem test_decode_dec_empty : decode (.command 0x6000000000000000 0xFFFFFFFFFFFFFFFF) = .ok (.dec []) := by decide

theorem test_decode_reset : decode (.command 0x7000000000000000 0) = .ok .reset := by decide

theorem test_decode_wr16 : decode (.request [0x02, 0x06, 0x0D, 0x03, 0x01, 0x02, 0xFB, 0x04]) =
    .ok (.wr16 0x02 0x0D 0x03 0x0102 0xFB 0x04) := by decide

theorem test_decode_wr32 : decode (.request [0xF7, 0x03, 0x20, 0x01, 0x00, 0x01, 0x86, 0xA0, 0x34, 0xD1]) =
    .ok (.wr32 0xF7 0x20 0x01 100000 0x34 0xD1) := by decide

theorem test_decode_resp : decode (.response [0x01, 0x86, 0x02, 0xC3, 0xA1]) =
    .ok (.resp [0x01, 0x86, 0x02, 0xC3, 0xA1]) := by decide

/-- Byte 1 tells the format, and the length must be its own (30_encoding R78). -/
theorem test_decode_request_declined : decode (.request [0x01, 0x03, 0x00, 0x00, 0x00, 0x01, 0x48, 0x0A]) =
    .error .notARequest ∧ decode (.request [0x01, 0x06, 0x00]) = .error .notARequest := by decide

theorem test_decode_response_declined : decode (.response [0, 1, 2, 3, 4, 5, 6, 7, 8]) = .error .responseTooLong := by
  decide

/-- 95 sections 3, 4 and 5: the reserved codes, a must-be-zero bit of each format, `len` at 9 and 15. -/
theorem test_decode_declined :
    decodeCommand 0x0000000000000000 0 = .error .badOp ∧ decodeCommand 0x8000000000000000 0 = .error .badOp ∧
    decodeCommand 0xF000000000000000 0 = .error .badOp ∧ decodeCommand 0x5000000000000001 0 = .error .badOp ∧
    decodeCommand 0x2010000000000001 0 = .error .badOp ∧ decodeCommand 0x4010000200000001 0 = .error .badOp ∧
    decodeCommand 0x6100000000000001 0 = .error .badOp ∧ decodeCommand 0x6900000000000001 0 = .error .badOp ∧
    decodeCommand 0x6900000000000000 0 = .error .badLen ∧ decodeCommand 0x6F00000000000000 0 = .error .badLen := by
  decide

theorem test_decode_dec_longest : decodeCommand 0x6800000000000000 0x010600000001480A = .ok (.dec frameS7) := by decide

/-- The opcode table's `match` of each row, and a frame of each wire row. -/
theorem test_table_words :
    decodeTableWord 64 0x1000000000000000 = some .crcInit ∧
    decodeTableWord 64 0x2000000000000000 = some (.crcUpdate 0) ∧
    decodeTableWord 64 0x3000000000000000 = some .crcRead ∧
    decodeTableWord 64 0x4000000000000000 = some (.enc 0 0 0 .u16 0) ∧
    decodeTableWord 64 0x5000000000000000 = some .send ∧
    decodeTableWord 64 0x6000000000000000 = some (.dec []) ∧
    decodeTableWord 64 0x7000000000000000 = some .reset ∧
    decodeTableWord 64 0x0006000000000000 = some (.wr16 0 0 0 0 0 0) ∧
    decodeTableWord 64 0x010600000001480A = some (.wr16 0x01 0x00 0x00 1 0x48 0x0A) ∧
    decodeTableWord 80 0x00030000000000000000 = some (.wr32 0 0 0 0 0 0) ∧
    decodeTableWord 80 0x01031234123456787B45 = some (.wr32 0x01 0x12 0x34 0x12345678 0x7B 0x45) ∧
    decodeTableWord 0 0 = some (.resp []) ∧
    decodeTableWord 64 0 = some (.resp [0, 0, 0, 0, 0, 0, 0, 0]) ∧
    decodeTableWord 40 0x018602C3A1 = some (.resp [0x01, 0x86, 0x02, 0xC3, 0xA1]) := by decide

/-! ### The pure functions -/

/-- `crc_bit` (95 section 2.1). -/
theorem test_crcBit : crcBit 0x0001 = 0xA001 ∧ crcBit 0x0002 = 0x0001 ∧ crcBit 0xFFFF = 0xDFFE ∧
    crcBit 0x8000 = 0x4000 := by decide

/-- `crc_update` (95 section 2.1). -/
theorem test_crcUpdate : crcUpdate 0xFFFF 0x01 = 0x807E ∧ crcUpdate 0x0000 0x80 = 0xA001 ∧
    crcUpdate 0x1234 0x56 = 0xE993 ∧ crcUpdate 0xCDC5 0xC5 = 0x00CD := by decide

set_option maxRecDepth 20000 in
/-- `crc16`: the source's vector and others of 95 section 2.1. -/
theorem test_crc16 : crc16 [] = 0xFFFF ∧ crc16 [0x01, 0x03, 0x00, 0x00, 0x00, 0x0A] = 0xCDC5 ∧
    crc16 [0x31, 0x32, 0x33, 0x34, 0x35, 0x36, 0x37, 0x38, 0x39] = 0x4B37 ∧
    crc16 [0x01, 0x06, 0x00, 0x00, 0x00, 0x01, 0x0A, 0x48] = 0x91B0 := by decide

/-- The table form and the bit-serial form (95 section 2.2 and 2.1). -/
theorem test_crc_forms : crcTable 0x01 = 0xC0C1 ∧ crcTable 0xFE = 0x8081 ∧ crcUpdateByTable 0xFFFF 0x01 = 0x807E ∧
    crcUpdateSerial 0x1234 0x56 = 0xE993 := by decide

set_option maxRecDepth 20000 in
/-- Frames of 95 section 3: a wrap, a 32-bit value, every operand bit set. -/
theorem test_encodeFrame :
    encodeFrame 1 0x03 0x0D .u16 70000 = [0x01, 0x06, 0x03, 0x0D, 0x11, 0x70, 0x15, 0xF9] ∧
    encodeFrame 1 0x60 0x7A .u32 100000 = [0x01, 0x03, 0x60, 0x7A, 0x00, 0x01, 0x86, 0xA0, 0x51, 0x75] ∧
    encodeFrame 255 0xFF 0xFF .u32 0xFFFFFFFF = [0xFF, 0x03, 0xFF, 0xFF, 0xFF, 0xFF, 0xFF, 0xFF, 0x3D, 0x80] := by
  decide

set_option maxRecDepth 20000 in
/-- Rows of 95 section 4: no byte, `V_FC` without `V_LEN`, the shortest valid one, another function code. -/
theorem test_decodeExchange :
    decodeExchange [] (some 0x06) = ⟨false, .noResponse, [], false, false, false, false⟩ ∧
    decodeExchange [0x01, 0x06, 0x00] (some 0x06) =
      ⟨true, .noError, [0x01, 0x06, 0x00], false, false, true, false⟩ ∧
    decodeExchange [0x01, 0x06, 0x80, 0x22] (some 0x06) =
      ⟨true, .noError, [0x01, 0x06, 0x80, 0x22], true, true, true, true⟩ ∧
    decodeExchange [0x01, 0x86, 0x02, 0xC3, 0xA1] (some 0x06) =
      ⟨true, .noError, [0x01, 0x86, 0x02, 0xC3, 0xA1], true, true, false, false⟩ := by decide

/-- What the host presents (41_encoder R128, 95 section 3), and the data type of a tag (30_encoding R88). -/
theorem test_presentValue : presentValue .refuse (2 ^ 32 + 5) = some 5 ∧ presentValue .refuse (-1) = none ∧
    presentValue .wrap (-1) = some 0xFFFFFFFF ∧ dtypeOfTag "U16" = .u16 ∧ dtypeOfTag "I16" = .u32 := by decide

/-! ### One instruction -/

theorem test_crcInit : (nextOf (exec .crcInit { State.reset with crc := 0x1234 })).map (fun t => (t.crc, t.results)) =
    some (0xFFFF, [.ok]) := by decide

theorem test_crcUpdate_exec :
    (nextOf (exec (.crcUpdate 0x03) { State.reset with crc := 0x807E })).map (fun t => t.crc) = some 0x2140 := by decide

theorem test_crcRead : (nextOf (exec .crcRead { State.reset with crc := 0xCDC5 })).map (fun t => (t.crc, t.results)) =
    some (0xCDC5, [.okCrc 0xCDC5 0xC5 0xCD]) := by decide

/-- 95 section 2.1, last row: nothing but the refusal while the read is owed. -/
theorem test_crcInit_busy : exec .crcInit { awaiting with crc := 0x1234 } =
    .next { awaiting with crc := 0x1234, results := [.refused .busy] } := by rfl

set_option maxRecDepth 20000 in
/-- 95 P2 row 1. -/
theorem test_enc : (nextOf (exec (.enc 1 0 0 .u16 1) State.reset)).map (fun t => (t.txBuf, t.status, t.crc)) =
    some ([(0, 0x01), (1, 0x06), (2, 0x00), (3, 0x00), (4, 0x00), (5, 0x01), (6, 0x48), (7, 0x0A)], 0x0008, 0xFFFF) := by
  decide

set_option maxRecDepth 20000 in
/-- An 8-byte frame over a 10-byte one leaves no value in bytes 8 and 9 (41_encoder R122). -/
theorem test_enc_shorter :
    (nextOf (exec (.enc 1 0 0 .u16 1) (State.reset.putFrame (encodeFrame 1 0 0 .u32 0)))).map
      (fun t => (t.txBuf.read 7, t.txBuf.read 8, t.txBuf.read 9, t.txLen)) =
      some (some 0x0A, none, none, 8) := by decide

/-- 95 section 5. -/
theorem test_send_no_frame : exec .send State.reset = .next { State.reset with results := [.refused .noFrame] } := by rfl

theorem test_send_accepted : exec .send encoded = .next accepted := by rfl

set_option maxRecDepth 20000 in
/-- 95 P6 row 1: no request, so `V_FC` is 0. -/
theorem test_dec_no_request : (nextOf (exec (.dec [0x01, 0x06, 0x80, 0x22]) State.reset)).map
    (fun t => (t.status, t.results)) = some (0x3240, [.okExchange true [0x01, 0x06, 0x80, 0x22] .noError]) := by decide

set_option maxRecDepth 20000 in
/-- 95 P6 row 3. -/
theorem test_dec_request : (nextOf (exec (.dec [0x01, 0x06, 0x80, 0x22]) encoded)).map (fun t => t.status) =
    some 0xF248 := by decide

/-- 95 section 5: `RESET` in `AWAIT`. -/
theorem test_reset_awaiting : (nextOf (exec .reset { awaiting with crc := 0x1234 })).map
    (fun t => (t.sess, t.status, t.crc, t.wire)) = some (.idle, 0x0000, 0xFFFF, []) := by decide

/-- 95 P2 row 2a: `SEND.TX` answers `written`. -/
theorem test_wr16_written : exec (.wr16 0x01 0x00 0x00 1 0x48 0x0A) { accepted with writeAnswers := [.count 8] } =
    .next { awaiting with wire := [.write frameS7] } := by rfl

/-- 95 section 5, last row; a count of 7 is short of the frame. -/
theorem test_wr16_short : (nextOf (exec (.wr16 0x01 0x00 0x00 1 0x48 0x0A)
    { accepted with writeAnswers := [.count 7] })).map (fun t => (t.status, t.results, t.wire)) =
    some (0x0808, [.okExchange false [] .channelIo], [.write frameS7]) := by decide

/-- The same count under the other setting of SHORT_WRITE_POLICY (00_scope R8, 93 U11). -/
theorem test_wr16_short_accept : exec (.wr16 0x01 0x00 0x00 1 0x48 0x0A)
    { accepted with shortWritePolicy := .accept, writeAnswers := [.count 7] } =
    .next { awaiting with shortWritePolicy := .accept, wire := [.write frameS7] } := by rfl

/-- 95 P4 row 2a. -/
theorem test_wr32_ioerror : (nextOf (exec (.wr32 0x01 0x60 0x7A 100000 0x51 0x75)
    { accepted with txLen := 10, writeAnswers := [.ioerror] })).map (fun t => (t.status, t.wire)) =
    some (0x080A, [.write [0x01, 0x03, 0x60, 0x7A, 0x00, 0x01, 0x86, 0xA0, 0x51, 0x75]]) := by decide

set_option maxRecDepth 20000 in
/-- 95 P2 row 2c. -/
theorem test_resp_echo : (nextOf (exec (.resp frameS7) awaiting)).map (fun t => (t.status, t.results)) =
    some (0xF288, [.okExchange true frameS7 .noError]) := by decide

/-- 95 P3 row 2c. -/
theorem test_resp_empty : (nextOf (exec (.resp []) awaiting)).map (fun t => (t.status, t.rxBuf, t.results)) =
    some (0x0408, [], [.okExchange false [] .noResponse]) := by decide

set_option maxRecDepth 20000 in
/-- The views of 95 section 4, after `DEC [01 06 00 00 00 01 48 0A]`. -/
theorem test_views : (nextOf (exec (.dec frameS7) State.reset)).map
    (fun t => (t.rUnit.toOption, t.rFc.toOption, t.rData.toOption, t.rCrc.toOption)) =
    some (some 0x01, some 0x06, some [0x00, 0x00, 0x00, 0x01], some 0x0A48) := by decide

/-- After `DEC [01]` only `R_UNIT` has a value (95 section 4). -/
theorem test_views_one_byte : (nextOf (exec (.dec [0x01]) State.reset)).map
    (fun t => (t.rUnit.toOption, t.rFc.toOption, t.rData.toOption, t.rCrc.toOption)) =
    some (some 0x01, none, none, none) := by decide

/-! ### One step -/

/-- Placed after reset, the host commands run. -/
theorem test_step_placed_command :
    (nextOf (step (State.reset.withFetchWord 64 0x2010000000000000))).map (fun t => (t.crc, t.commands)) =
      some (0x807E, []) ∧
    (nextOf (step (State.reset.withFetchWord 64 0x5000000000000000))).map (fun t => t.results) =
      some [.refused .noFrame] ∧
    (nextOf (step (State.reset.withFetchWord 64 0x7000000000000000))).map (fun t => t.results) = some [.ok] := by decide

/-- Placed after reset, a request frame goes out, whatever the channel answers to it. -/
theorem test_step_placed_request :
    step (State.reset.withFetchWord 64 0x010600000001480A) = .next (accepted.sendTx frameS7) := by rfl

/-- Placed after reset, a response is taken. The request is absent there, so `V_FC` is 0. -/
theorem test_step_placed_response :
    (nextOf (step (State.reset.withFetchWord 8 0xAA))).map (fun t => (t.sess, t.status, t.results)) =
      some (.idle, 0x0210, [.okExchange true [0xAA] .noError]) := by decide

/-- An idle block whose host issues nothing stays as it is (log 15). -/
theorem test_step_rest : step encoded = .next encoded := by rfl

/-- 95 section 3: in `AWAIT` a word that is no command is `BAD_OP` before `BUSY`. -/
theorem test_step_bad_op_first :
    step (issuing awaiting [⟨0x4010000200000001, 0, true⟩]) = .next { awaiting with results := [.refused .badOp] } := by
  rfl

/-- The invariants are not met by a length without bytes, and a response faults there (log 9). -/
theorem test_fault : faultOf (exec (.resp [0xAA]) { hollow with sess := .await }) = some (.noValue .tx 1) ∧
    faultOf (exec (.dec [0xAA]) hollow) = some (.noValue .tx 1) := by decide

theorem test_wire_refused : refusalOf (exec (.wr16 0x01 0x00 0x00 1 0x48 0x0A) encoded) = some .sendTxNotEnabled ∧
    refusalOf (exec (.wr32 0x01 0x00 0x00 1 0x00 0x00) awaiting) = some .sendTxNotEnabled ∧
    refusalOf (exec (.resp []) encoded) = some .sendRxNotEnabled := by decide

/-! ### States that meet the hypotheses of the statements -/

/-- A buffer of explicit cells holds the bytes below its length. -/
theorem holds_of_cells {size : Nat} {m : Memory} {len : Nat} (hw : m.wf size) (hb : len ≤ size)
    (hl : ∀ a, a < size → ((m.read a).isSome ↔ a < len)) : m.Holds size len where
  wf := hw
  bound := hb
  listed a := by
    by_cases ha : a < size
    · exact hl a ha
    · simp [Memory.read_none_of_wf hw (by omega : size ≤ a)]; omega

set_option maxRecDepth 20000 in
/-- With the frame of S7 in `TXBUF` and no error or success, R41 holds whatever `RXBUF` and `RXLEN` are. -/
theorem invR41_of_frameS7 (s : State) (hb : s.txBuf = encoded.txBuf) (hl : s.txLen = 8) (hr : s.rxBuf.wf 8)
    (hn : s.rxLen.toNat ≤ 8) (hs : s.success = false) (he : s.errKind = .noError)
    (hv : s.vLen = false ∧ s.vCrc = false ∧ s.vFc = false ∧ s.valid = false) : s.InvR41 := by
  obtain ⟨h1, h2, h3, h4⟩ := hv
  have hf : s.frame = .ok frameS7 := (State.frame_congr (t := encoded) hb hl).trans rfl
  constructor
  · rw [hb]; decide
  · exact hr
  · rw [hl]; exact .inr (.inl rfl)
  · intro _; rw [hb]; decide
  · intro h; rw [hl] at h; exact absurd h (by decide)
  · exact fun _ => ⟨frameS7, hf, by decide⟩
  · exact hn
  · rw [hs]; intro h; cases h
  · rw [he]; intro h; exact absurd rfl h
  · rw [h1, h2, h3, h4]; rfl
  · rw [h2]; intro h; cases h
  · rw [h1, h2, h3, h4]; simp
  · intro _; rw [hl]; decide

/-- With that frame and no response, the invariants hold for every other field that keeps to them. -/
theorem inv_of_frameS7 (s : State) (hb : s.txBuf = encoded.txBuf) (hl : s.txLen = 8) (hr : s.rxBuf = [])
    (hn : s.rxLen = 0) (hs : s.success = false) (he : s.errKind = .noError)
    (hv : s.vLen = false ∧ s.vCrc = false ∧ s.vFc = false ∧ s.valid = false)
    (ha : s.sendAccepted = true → s.sess = .idle) : s.Inv where
  toInvR41 := invR41_of_frameS7 s hb hl (by rw [hr]; decide) (by rw [hn]; decide) hs he hv
  txHolds := by rw [hb, hl]; exact holds_of_cells (by decide) (by decide) (by decide)
  rxHolds := by rw [hr, hn]; exact Memory.holds_nil 8
  nonEmpty := by rw [hn]; intro h; exact absurd h (by decide)
  accepted h := ⟨ha h, by rw [hl]; decide⟩

theorem encoded_inv : encoded.Inv := inv_of_frameS7 _ rfl rfl rfl rfl rfl rfl ⟨rfl, rfl, rfl, rfl⟩ (by decide)

theorem accepted_inv : accepted.Inv := inv_of_frameS7 _ rfl rfl rfl rfl rfl rfl ⟨rfl, rfl, rfl, rfl⟩ (by decide)

theorem awaiting_inv : awaiting.Inv := inv_of_frameS7 _ rfl rfl rfl rfl rfl rfl ⟨rfl, rfl, rfl, rfl⟩ (by decide)

theorem encoded_idleStart : encoded.IdleStart := ⟨rfl, rfl, encoded_inv.toInvR41⟩

/-- R41 allows three bytes of response beside `SUCCESS` 0 and `NONE`, with any bytes in `RXBUF`: an idle start
(70_reset_and_hazards R233) that does not meet the stronger invariants. -/
theorem test_idleStart_arbitrary_registers :
    let s : State := { encoded with rxLen := 3, rxBuf := [(5, 0xAA)] }
    s.IdleStart ∧ ¬ s.Inv :=
  ⟨⟨rfl, rfl, invR41_of_frameS7 _ rfl rfl (by decide) (by decide) rfl rfl ⟨rfl, rfl, rfl, rfl⟩⟩,
    fun h => absurd (h.nonEmpty (by decide)) (by decide)⟩

set_option maxRecDepth 20000 in
theorem test_witness_DecodeEncodeRoundTrip : (Instr.wr16 0x01 0x00 0x00 1 0x48 0x0A).WellFormed ∧
    (Instr.dec frameS7).WellFormed ∧ (Instr.dec []).WellFormed ∧ (Instr.resp []).WellFormed := by decide

theorem test_witness_CommandWordDetermined :
    decodeCommand 0x6100000000000000 0xFF00000000000001 = .ok (.dec [0xFF]) := by decide

theorem test_witness_StepRunsHostCommand :
    (let s := issuing encoded [⟨0x2010000000000000, 0, false⟩]
     s.sess = .idle ∧ s.sendAccepted = false) ∧
    (let s := issuing awaiting [⟨0x7000000000000000, 0, true⟩]
     s.sess = .await ∧ s.commands.map (fun c => c.early) = [true]) ∧
    decodeCommand 0x2010000000000000 0 = .ok (.crcUpdate 0x01) ∧
    decodeCommand 0x7000000000000000 0 = .ok .reset := by decide

theorem test_witness_StepRunsRequestFrame : accepted.sess = .idle ∧ accepted.sendAccepted = true ∧
    accepted.frame = .ok frameS7 ∧ decodeRequest frameS7 = .ok (.wr16 0x01 0x00 0x00 1 0x48 0x0A) :=
  ⟨rfl, rfl, rfl, by decide⟩

/-- A host that waits has nothing early to issue. -/
theorem test_witness_StepRunsResponse :
    let s := { issuing awaiting [⟨0x3000000000000000, 0, false⟩] with readAnswers := [.bytes [0xAA], .ioerror] }
    s.sess = .await ∧ (∀ c cs, s.commands = c :: cs → c.early = false) ∧
      s.NextRead (.bytes [0xAA]) [.ioerror] 0 :=
  ⟨rfl, by rintro c cs h; cases h; rfl, .inl ⟨rfl, rfl⟩⟩

/-- A channel for which no answer is placed answers with a free value. -/
theorem test_witness_free_answers : accepted.NextWrite (Config.freeWrite 0) [] 1 ∧
    awaiting.NextRead (Config.freeRead 0) [] 1 :=
  ⟨.inr ⟨rfl, rfl, rfl, rfl⟩, .inr ⟨rfl, rfl, rfl, rfl⟩⟩

theorem test_witness_PlacedWordRuns : decodeTableWord 64 0x5000000000000000 = some .send ∧
    decodeTableWord 64 0x010600000001480A = some (.wr16 0x01 0x00 0x00 1 0x48 0x0A) ∧
    decodeTableWord 8 0xAA = some (.resp [0xAA]) := by decide

theorem test_witness_ResetValues : ∃ s t : State, s.sess = .await ∧ exec .reset s = .next t :=
  ⟨awaiting, _, rfl, rfl⟩

theorem test_witness_idle_and_await : encoded.sess = .idle ∧ encoded.txLen ≠ 0 ∧ State.reset.sess = .idle ∧
    State.reset.txLen = 0 ∧ awaiting.sess = .await := by decide

theorem test_witness_CrcUpdateEffect : BitVec.extractLsb' 60 4 (0x20A0000000000000 : Word64) = 0x2 ∧
    BitVec.extractLsb' 0 52 (0x20A0000000000000 : Word64) = 0 := by decide

set_option maxRecDepth 20000 in
theorem test_witness_CrcReadEffect :
    let s := { State.reset with crc := 0xCDC5 }
    s.sess = .idle ∧ s.crc = crc16 [0x01, 0x03, 0x00, 0x00, 0x00, 0x0A] := by decide

theorem test_witness_StreamingComputesCrc16 : encoded.sess = .idle ∧ encoded.sendAccepted = false ∧
    encoded.commands = [] := by decide

theorem test_witness_EncEffect : BitVec.extractLsb' 60 4 (0x4FFFFFF1FFFFFFFF : Word64) = 0x4 ∧
    BitVec.extractLsb' 33 3 (0x4FFFFFF1FFFFFFFF : Word64) = 0 := by decide

theorem test_witness_PresentedValue : (-1 : Int) < 0 := by decide

/-- A host command other than `RESET`, while the read is owed. -/
theorem test_witness_ResetCommand : awaiting.sess = .await ∧ encode .send = .command 0x5000000000000000 0 ∧
    Instr.send ≠ .reset := by decide

theorem test_witness_ParameterFixed : ∃ t, step { accepted with shortWritePolicy := .accept } = .next t := ⟨_, rfl⟩

/-- Each clause, at 8 and at 9 bytes, with and without a request, and `len` at 0 and at 8. -/
theorem test_witness_DecEffect :
    8 < [0, 1, 2, 3, 4, 5, 6, 7, 8].length ∧ frameS7.length ≤ 8 ∧
    (State.reset.txLen = 0 ∧ (none : Option Byte) = none) ∧
    (encoded.txLen ≠ 0 ∧ (encoded.txBuf.read 1).isSome = true ∧ some 0x06 = encoded.txBuf.read 1) ∧
    encoded.requestFc.isOk = true ∧ State.reset.requestFc.isOk = true ∧
    BitVec.extractLsb' 60 4 (0x6800000000000000 : Word64) = 0x6 ∧
    BitVec.extractLsb' 0 56 (0x6800000000000000 : Word64) = 0 ∧
    (BitVec.extractLsb' 56 4 (0x6800000000000000 : Word64)).toNat ≤ 8 ∧
    (BitVec.extractLsb' 56 4 (0x6000000000000000 : Word64)).toNat ≤ 8 := by decide

theorem test_witness_SuccessIsNonEmpty : (∃ t, exec (.dec [0x00]) encoded = .next t) ∧
    (∃ t, exec (.dec []) encoded = .next t) ∧ (∃ t, exec (.resp [0x00]) awaiting = .next t) ∧
    ∃ t, exec (.resp []) awaiting = .next t :=
  ⟨⟨_, rfl⟩, ⟨_, rfl⟩, ⟨_, rfl⟩, ⟨_, rfl⟩⟩

/-- Each clause of the views: 0, 1, 2, 3 and 4 bytes stored. -/
theorem test_witness_ResponseViews : ∀ bs ∈ [[], [0x01], [0x01, 0x06], [0x01, 0x06, 0x80], [0x01, 0x06, 0x80, 0x22]],
    (nextOf (exec (.dec bs) encoded)).isSome = true ∧ (nextOf (exec (.resp bs) awaiting)).isSome = true := by decide

/-- The count at the length of each frame, above it and one below it, under both policies, and an error. -/
theorem test_witness_answers : ∀ p : ShortWritePolicy,
    TakenAsWritten p 8 (.count 8) ∧ TakenAsWritten p 8 (.count 9) ∧ TakenAsWritten p 10 (.count 10) ∧
    TakenAsError .error 8 (.count 7) ∧ TakenAsError .error 10 (.count 9) ∧ TakenAsWritten .accept 8 (.count 7) ∧
    TakenAsError p 8 .ioerror := fun _ =>
  ⟨⟨8, rfl, .inl (by decide)⟩, ⟨9, rfl, .inl (by decide)⟩, ⟨10, rfl, .inl (by decide)⟩,
    .inr ⟨7, rfl, by decide, rfl⟩, .inr ⟨9, rfl, by decide, rfl⟩, ⟨7, rfl, .inr rfl⟩, .inl rfl⟩

theorem test_witness_RequestFrameEffect :
    (request16 0x01 0x00 0x00 1 0x48 0x0A).length = 8 ∧ (request32 0x01 0x60 0x7A 100000 0x51 0x75).length = 10 ∧
    accepted.sess = .idle ∧ accepted.sendAccepted = true ∧ accepted.shortWritePolicy = .error ∧
    ∀ w : WriteAnswer, { accepted with writeAnswers := [w] }.NextWrite w [] 0 :=
  ⟨rfl, rfl, rfl, rfl, rfl, fun _ => .inl ⟨rfl, rfl⟩⟩

theorem test_witness_ResponseEffect : frameS7.length ≤ 8 ∧ awaiting.sess = .await ∧ awaiting.txLen ≠ 0 ∧
    (awaiting.txBuf.read 1).isSome = true ∧ some 0x06 = awaiting.txBuf.read 1 ∧
    { awaiting with txLen := 0 }.txLen = 0 := by decide

/-- `SEND.TX` is enabled, for each answer of the channel. -/
theorem test_witness_SendTxStep : ∀ w : List WriteAnswer,
    { accepted with writeAnswers := w }.Inv ∧ { accepted with writeAnswers := w }.sendAccepted = true ∧
      ∀ a as, w = a :: as → { accepted with writeAnswers := w }.NextWrite a as 0 := fun _ =>
  ⟨inv_of_frameS7 _ rfl rfl rfl rfl rfl rfl ⟨rfl, rfl, rfl, rfl⟩ fun _ => rfl, rfl, fun _ _ h => .inl ⟨h, rfl⟩⟩

/-- `SEND.RX` is enabled and the host waits, for each answer of the channel. -/
theorem test_witness_SendRxStep : ∀ r : List ReadAnswer,
    { awaiting with readAnswers := r }.Inv ∧ { awaiting with readAnswers := r }.sess = .await ∧
      (∀ c cs, { awaiting with readAnswers := r }.commands = c :: cs → c.early = false) ∧
      ∀ a as, r = a :: as → { awaiting with readAnswers := r }.NextRead a as 0 := fun _ =>
  ⟨inv_of_frameS7 _ rfl rfl rfl rfl rfl rfl ⟨rfl, rfl, rfl, rfl⟩ (fun h => nomatch h), rfl,
    (fun _ _ h => nomatch h), fun _ _ h => .inl ⟨h, rfl⟩⟩

theorem test_witness_ExchangeTerminates : awaiting.Inv ∧ awaiting.sess = .await ∧
    ∀ c cs, awaiting.commands = c :: cs → c.early = false :=
  ⟨awaiting_inv, rfl, fun _ _ h => nomatch h⟩

/-- Any answers of the channel. -/
theorem test_witness_XchgProgram : ∀ w a,
    let s : State := { encoded with writeAnswers := [w], readAnswers := [a] }
    s.IdleStart ∧ s.commands = [] ∧ s.NextWrite w [] 0 ∧ ({ s with draws := 0 }).NextRead a [] 0 := fun w a =>
  ⟨⟨rfl, rfl, (inv_of_frameS7 { encoded with writeAnswers := [w], readAnswers := [a] } rfl rfl rfl rfl rfl rfl ⟨rfl, rfl, rfl, rfl⟩ (fun h => nomatch h)).toInvR41⟩, rfl,
    .inl ⟨rfl, rfl⟩, .inl ⟨rfl, rfl⟩⟩

/-- Two blocks that differ in `CRC`, in the old response and in their earlier results. -/
theorem test_witness_ExchangesIndependent :
    let s' : State := { encoded with crc := 0x1234, rxLen := 3, rxBuf := [(5, 0xAA)], results := [.ok], wire := [.write [0x00]] }
    encoded.IdleStart ∧ s'.IdleStart ∧ encoded.txLen ≠ 0 ∧ encoded.txBuf = s'.txBuf ∧ encoded.txLen = s'.txLen ∧
      encoded.commands = [] ∧ s'.commands = [] ∧ encoded.writeAnswers = s'.writeAnswers ∧
      encoded.readAnswers = s'.readAnswers ∧ encoded.draws = s'.draws ∧
      encoded.shortWritePolicy = s'.shortWritePolicy ∧ encoded ≠ s' :=
  ⟨encoded_idleStart, ⟨rfl, rfl, invR41_of_frameS7 _ rfl rfl (by decide) (by decide) rfl rfl ⟨rfl, rfl, rfl, rfl⟩⟩,
    by decide, rfl, rfl, rfl, rfl, rfl, rfl, rfl, rfl, by decide⟩

/-- A step of each kind: no event, a write, a read. -/
theorem test_witness_OneWireEventPerStep : (∃ t, step encoded = .next t) ∧ (∃ t, step accepted = .next t) ∧
    ∃ t, step { awaiting with readAnswers := [.ioerror] } = .next t :=
  ⟨⟨_, rfl⟩, ⟨_, rfl⟩, ⟨_, rfl⟩⟩

theorem test_witness_BusyWhileAwaiting : awaiting.sess = .await ∧ [0x00, 0x01].length ≤ 8 := by decide

theorem test_witness_RefusalOrder :
    (issuing awaiting [⟨0x6900000000000000, 0, true⟩]).sess = .await ∧
    decodeCommand 0x6900000000000000 0 = .error .badLen ∧
    (issuing awaiting [⟨0x3000000000000000, 0, true⟩]).sess = .await ∧
    decodeCommand 0x3000000000000000 0 = .ok .crcRead ∧ Instr.crcRead ≠ .reset ∧
    decodeCommand 0x5000000000000000 0 = .ok .send ∧
    (issuing State.reset [⟨0x5000000000000000, 0, false⟩]).txLen = 0 ∧
    (issuing State.reset [⟨0x5000000000000000, 0, false⟩]).sess = .idle ∧
    (issuing State.reset [⟨0x5000000000000000, 0, false⟩]).sendAccepted = false := by decide

theorem test_witness_RefusedChangesNothing :
    exec .send State.reset = .next (State.reset.refuse .noFrame) ∧
      (State.reset.refuse .noFrame).results = State.reset.results ++ [.refused .noFrame] := ⟨rfl, rfl⟩

/-- A register of each writer changes. -/
theorem test_witness_RegisterWriters :
    (nextOf (exec .crcInit { State.reset with crc := 0 })).map (fun t => t.crc) ≠ some 0 ∧
    (nextOf (exec (.enc 1 0 0 .u16 1) State.reset)).map (fun t => t.txLen) ≠ some State.reset.txLen ∧
    (nextOf (exec .reset awaiting)).map (fun t => t.sess) ≠ some awaiting.sess ∧
    (nextOf (exec (.dec [0x00]) State.reset)).map (fun t => t.success) ≠ some State.reset.success := by decide

theorem test_witness_CrcIsolation : (∃ t, exec (.enc 1 0 0 .u16 1) encoded = .next t) ∧
    (∃ t, exec (.wr16 0 0 0 0 0 0) accepted = .next t) ∧ (∃ t, exec (.resp []) awaiting = .next t) ∧
    ∃ t, exec .crcInit encoded = .next t :=
  ⟨⟨_, rfl⟩, ⟨_, rfl⟩, ⟨_, rfl⟩, ⟨_, rfl⟩⟩

theorem test_witness_WhereInstructionsStop :
    exec (.resp [0xAA]) { hollow with sess := .await } = .fault (.noValue .tx 1) ∧
    exec (.wr16 0 0 0 0 0 0) encoded = .refused .sendTxNotEnabled ∧
    exec (.resp []) encoded = .refused .sendRxNotEnabled := ⟨rfl, rfl, rfl⟩

/-- The ports at the first and last address of each clause. -/
theorem test_witness_BufferPorts : encoded.Inv ∧
    encoded.portTx 0 = .ok 0x01 ∧ encoded.portTx 7 = .ok 0x0A ∧ encoded.portTx 8 = .error (.noValue .tx 8) ∧
    encoded.portTx 9 = .error (.noValue .tx 9) ∧ encoded.portTx 10 = .error (.noSuchAddress .tx 10) ∧
    encoded.portRx 0 = .error (.noValue .rx 0) ∧ encoded.portRx 7 = .error (.noValue .rx 7) ∧
    encoded.portRx 8 = .error (.noSuchAddress .rx 8) ∧
    (State.reset.putResponse (decodeExchange [0xAA] none)).portRx 0 = .ok 0xAA :=
  ⟨encoded_inv, rfl, rfl, rfl, rfl, rfl, rfl, rfl, rfl, rfl⟩

theorem test_witness_StepKeepsInvariants : accepted.Inv ∧ ∃ t, step accepted = .next t := ⟨accepted_inv, _, rfl⟩

theorem test_witness_StepKeepsInvR41 :
    let s : State := { accepted with rxLen := 3, rxBuf := [(5, 0xAA)] }
    s.InvR41 ∧ s.AcceptedWithFrame ∧ ∃ t, step s = .next t :=
  ⟨invR41_of_frameS7 _ rfl rfl (by decide) (by decide) rfl rfl ⟨rfl, rfl, rfl, rfl⟩, fun _ => ⟨rfl, by decide⟩, _, rfl⟩

end Sys2Proof.Tests
end

section
/-! `RESET` (10_state R40, 43_session R170): what its step is, and that power-on and `RESET` both leave the block in the
reset state. -/

namespace Sys2Proof.Machine

/-- The one outcome of `RESET`, in every state (43_session R170). -/
@[simp] theorem exec_reset (s : State) : exec .reset s = .next (s.resetBlock.pushResult .ok) := rfl

theorem State.cleanStart_reset : State.reset.CleanStart := rfl

theorem State.cleanStart_of_exec_reset {s t : State} (h : exec .reset s = .next t) : t.CleanStart := by
  rw [exec_reset] at h
  cases h
  rfl

/-- Settles O10: after power-on and after `RESET` the block equals its own reset, whose registers R40 lists. -/
theorem resetValues : Obligations.ResetValues := by
  intro t ht
  have hclean : t.resetBlock = t := by
    obtain rfl | ⟨s, hs⟩ := ht
    · exact State.cleanStart_reset
    · exact State.cleanStart_of_exec_reset hs
  rw [← hclean]
  simp [Config.crcInit]

end Sys2Proof.Machine
end

section
/-! The operations of the CRC unit (40_crc16 section 2): what each of them is in every state, the words that encode them,
and the source's reference vector. -/

namespace Sys2Proof

open Machine

/-- The word of `CRC.INIT` (30_encoding R85). -/
theorem decodeCommand_crcInit {cw : Word64} (raw : Word64) (hop : cw.extractLsb' 60 4 = 1#4)
    (hmbz : cw.extractLsb' 0 60 = 0#60) : decodeCommand cw raw = .ok .crcInit := by
  rw [decodeCommand_eq, if_pos hop, if_pos hmbz]

/-- The words of `CRC.UPDATE` (30_encoding R85). -/
theorem decodeCommand_crcUpdate {cw : Word64} (raw : Word64) (hop : cw.extractLsb' 60 4 = 2#4)
    (hmbz : cw.extractLsb' 0 52 = 0#52) : decodeCommand cw raw = .ok (.crcUpdate (cw.extractLsb' 52 8)) := by
  rw [decodeCommand_eq, if_neg (by simp [hop]), if_pos hop, if_pos hmbz]

/-- The word of `CRC.READ` (30_encoding R85). -/
theorem decodeCommand_crcRead {cw : Word64} (raw : Word64) (hop : cw.extractLsb' 60 4 = 3#4)
    (hmbz : cw.extractLsb' 0 60 = 0#60) : decodeCommand cw raw = .ok .crcRead := by
  rw [decodeCommand_eq, if_neg (by simp [hop]), if_neg (by simp [hop]), if_pos hop, if_pos hmbz]

end Sys2Proof

namespace Sys2Proof.Machine

/-- `CRC.INIT` in every state: its writes, unless `BUSY` (40_crc16 R103). -/
@[simp] theorem exec_crcInit (s : State) :
    exec .crcInit s = s.unlessBusy (.next { s with crc := 0xFFFF, results := s.results ++ [.ok] }) := rfl

/-- `CRC.UPDATE` in every state: its writes, unless `BUSY` (40_crc16 R105). -/
@[simp] theorem exec_crcUpdate (b : Byte) (s : State) :
    exec (.crcUpdate b) s =
      s.unlessBusy (.next { s with crc := crcUpdate s.crc b, results := s.results ++ [.ok] }) := rfl

/-- `CRC.READ` in every state: the triple it returns, unless `BUSY` (40_crc16 R107). -/
@[simp] theorem exec_crcRead (s : State) :
    exec .crcRead s =
      s.unlessBusy (.next { s with results := s.results ++ [.okCrc s.crc (lo8 s.crc) (hi8 s.crc)] }) := rfl

/-- The source's vector (40_crc16 R100), by the running values that R114 lists. -/
theorem crc16_sourceVector : crc16 [0x01, 0x03, 0x00, 0x00, 0x00, 0x0A] = 0xCDC5 := by
  have h1 : crcUpdate 0xFFFF 0x01 = 0x807E := by decide
  have h2 : crcUpdate 0x807E 0x03 = 0x2140 := by decide
  have h3 : crcUpdate 0x2140 0x00 = 0xF020 := by decide
  have h4 : crcUpdate 0xF020 0x00 = 0xD8F1 := by decide
  have h5 : crcUpdate 0xD8F1 0x00 = 0x8419 := by decide
  have h6 : crcUpdate 0x8419 0x0A = 0xCDC5 := by decide
  simp only [crc16_eq, crcFeed_cons, crcFeed_nil, h1, h2, h3, h4, h5, h6]

/-- Settles O12: `CRC.INIT` is its one write under the `BUSY` check. -/
theorem crcInitEffect : Obligations.CrcInitEffect := by
  refine ⟨fun s hidle => ?_, fun s hawait => ?_, fun raw => ?_⟩
  · rw [exec_crcInit, State.unlessBusy_idle hidle]
  · exact State.unlessBusy_await hawait _
  · exact decodeCommand_crcInit raw (by decide) (by decide)

/-- Settles O13: `CRC.UPDATE` is one byte step under the `BUSY` check, and `crc16` is a fold of byte steps. -/
theorem crcUpdateEffect : Obligations.CrcUpdateEffect := by
  refine ⟨fun s b hidle => ?_, fun s b hawait => ?_, fun cw raw hop hmbz => ?_, fun a b => ?_, ?_, ?_⟩
  · rw [exec_crcUpdate, State.unlessBusy_idle hidle]
  · exact State.unlessBusy_await hawait _
  · exact decodeCommand_crcUpdate raw hop hmbz
  · exact (crc16_snoc a b).symm
  · rw [crc16_eq, crcFeed_nil]
    rfl
  · decide

/-- Settles O14: `CRC.READ` only returns the register and its two bytes, under the `BUSY` check. -/
theorem crcReadEffect : Obligations.CrcReadEffect := by
  refine ⟨fun s hidle => ?_, fun s hawait => ?_, fun raw => ?_, fun s hidle hcrc => ?_⟩
  · rw [exec_crcRead, State.unlessBusy_idle hidle, lo8, hi8]
  · exact State.unlessBusy_await hawait _
  · exact decodeCommand_crcRead raw (by decide) (by decide)
  · have hlo : lo8 0xCDC5 = 0xC5 := by decide
    have hhi : hi8 0xCDC5 = 0xCD := by decide
    rw [exec_crcRead, State.unlessBusy_idle hidle, hcrc, crc16_sourceVector, hlo, hhi]

end Sys2Proof.Machine
end

section
/-! The frame encoder (41_encoder): the bytes of `encode` as arithmetic on numbers, the truncation of a value to its declared
width, and `ENC` in every state with the words that encode it. -/

namespace Sys2Proof

open Machine

/-- The words of `ENC` (30_encoding R85). -/
theorem decodeCommand_enc {cw : Word64} (raw : Word64) (hop : cw.extractLsb' 60 4 = 4#4)
    (hmbz : cw.extractLsb' 33 3 = 0#3) :
    decodeCommand cw raw = .ok (.enc (cw.extractLsb' 52 8) (cw.extractLsb' 44 8) (cw.extractLsb' 36 8)
      (dtypeOfBit (cw.getLsbD 32)) (cw.extractLsb' 0 32)) := by
  rw [decodeCommand_eq, if_neg (by simp [hop]), if_neg (by simp [hop]), if_neg (by simp [hop]), if_pos hop, if_pos hmbz]

end Sys2Proof

namespace Sys2Proof.Machine

/-- The byte of a word that starts at bit `k`, as a number: `floor(v / 2^k) mod 256` (00_scope R12). -/
theorem extractLsb'_eq_ofNat_div {n : Nat} (v : BitVec n) (k : Nat) :
    v.extractLsb' k 8 = BitVec.ofNat 8 (v.toNat / 2 ^ k % 256) := by
  refine BitVec.eq_of_toNat_eq ?_
  rw [BitVec.extractLsb'_toNat, BitVec.toNat_ofNat, Nat.mod_mod, Nat.shiftRight_eq_div_pow]

theorem lo8_eq_ofNat (v : Word16) : lo8 v = BitVec.ofNat 8 (v.toNat % 256) := by
  rw [lo8, extractLsb'_eq_ofNat_div, Nat.pow_zero, Nat.div_one]

theorem hi8_eq_ofNat (v : Word16) : hi8 v = BitVec.ofNat 8 (v.toNat / 256) := by
  have hlt : v.toNat / 2 ^ 8 < 256 := by omega
  rw [hi8, extractLsb'_eq_ofNat_div, Nat.mod_eq_of_lt hlt]
  rfl

/-- The CRC bytes at a frame's end, as numbers (30_encoding R84). -/
theorem withCrc_eq_ofNat (body : List Byte) :
    withCrc body =
      body ++ [BitVec.ofNat 8 ((crc16 body).toNat % 256), BitVec.ofNat 8 ((crc16 body).toNat / 256)] := by
  rw [withCrc, le16, lo8_eq_ofNat, hi8_eq_ofNat]

/-- The value field of a U16 frame, as numbers (30_encoding R83). -/
theorem valueBytes_u16_eq_ofNat (v : Word32) :
    valueBytes .u16 v = [BitVec.ofNat 8 (v.toNat % 2 ^ 16 / 256), BitVec.ofNat 8 (v.toNat % 256)] := by
  have hlo : v.toNat % 2 ^ 16 % 256 = v.toNat % 256 := Nat.mod_mod_of_dvd _ (by decide)
  rw [valueBytes, be16, hi8_eq_ofNat, lo8_eq_ofNat, BitVec.toNat_setWidth, hlo]

/-- The value field of a U32 frame, as numbers (30_encoding R83). -/
theorem valueBytes_u32_eq_ofNat (v : Word32) :
    valueBytes .u32 v =
      [BitVec.ofNat 8 (v.toNat / 2 ^ 24), BitVec.ofNat 8 (v.toNat / 2 ^ 16 % 256),
        BitVec.ofNat 8 (v.toNat / 2 ^ 8 % 256), BitVec.ofNat 8 (v.toNat % 256)] := by
  have htop : v.toNat / 2 ^ 24 % 256 = v.toNat / 2 ^ 24 := Nat.mod_eq_of_lt (by omega)
  simp only [valueBytes, be32, extractLsb'_eq_ofNat_div, htop, Nat.pow_zero, Nat.div_one]

/-- A U16 value counts only modulo 2^16 (41_encoder R125). -/
theorem valueBytes_u16_mod (v : Word32) :
    valueBytes .u16 (BitVec.ofNat 32 (v.toNat % 2 ^ 16)) = valueBytes .u16 v := by
  have hlow : (BitVec.ofNat 32 (v.toNat % 2 ^ 16)).setWidth 16 = v.setWidth 16 := by
    refine BitVec.eq_of_toNat_eq ?_
    rw [BitVec.toNat_setWidth, BitVec.toNat_setWidth, BitVec.toNat_ofNat]
    omega
  exact congrArg be16 hlow

/-- A U16 frame of a value is the frame of its residue modulo 2^16 (41_encoder R125). -/
theorem encodeFrame_u16_mod (u i x : Byte) (v : Word32) :
    encodeFrame u i x .u16 (BitVec.ofNat 32 (v.toNat % 2 ^ 16)) = encodeFrame u i x .u16 v := by
  rw [encodeFrame, encodeFrame, frameBody, frameBody, valueBytes_u16_mod]

/-- `ENC` in every state: the frame into `TXBUF` and back to the host, unless `BUSY` (41_encoder R122). -/
@[simp] theorem exec_enc (u i x : Byte) (d : DType) (v : Word32) (s : State) :
    exec (.enc u i x d v) s =
      s.unlessBusy
        (.next ((s.putFrame (encodeFrame u i x d v)).pushResult (.okFrame (encodeFrame u i x d v)))) := rfl

/-- `TXLEN` holds the length of a frame of at most 10 bytes without loss. -/
theorem State.toNat_txLen_putFrame (s : State) {f : List Byte} (hl : f.length ≤ 10) :
    (s.putFrame f).txLen.toNat = f.length := by
  rw [State.putFrame_txLen, BitVec.toNat_ofNat]
  omega

/-- The body of the source's scenario S7, by the running values that 95_test_vectors section 2.1 lists. -/
theorem crc16_scenarioBody : crc16 [0x01, 0x06, 0x00, 0x00, 0x00, 0x01] = 0x0A48 := by
  have h1 : crcUpdate 0xFFFF 0x01 = 0x807E := by decide
  have h2 : crcUpdate 0x807E 0x06 = 0x2280 := by decide
  have h3 : crcUpdate 0x2280 0x00 = 0xA023 := by decide
  have h4 : crcUpdate 0xA023 0x00 = 0xD9E1 := by decide
  have h5 : crcUpdate 0xD9E1 0x00 = 0x4819 := by decide
  have h6 : crcUpdate 0x4819 0x01 = 0x0A48 := by decide
  simp only [crc16_eq, crcFeed_cons, crcFeed_nil, h1, h2, h3, h4, h5, h6]

/-- The frame of the source's scenario S7 (41_encoder R122). -/
theorem encodeFrame_scenario :
    encodeFrame 1 0x00 0x00 .u16 1 = [0x01, 0x06, 0x00, 0x00, 0x00, 0x01, 0x48, 0x0A] := by
  have hbody : frameBody 1 0x00 0x00 .u16 1 = [0x01, 0x06, 0x00, 0x00, 0x00, 0x01] := by decide
  rw [encodeFrame, hbody, withCrc, crc16_scenarioBody]
  decide

/-- Settles O21: the body is the header with the value's bytes as numbers, and the CRC's bytes as numbers follow it. -/
theorem encodeBytes : Obligations.EncodeBytes := by
  intro u i x v
  constructor
  · rw [encodeFrame, frameBody, valueBytes_u16_eq_ofNat]
    exact withCrc_eq_ofNat _
  · rw [encodeFrame, frameBody, valueBytes_u32_eq_ofNat]
    exact withCrc_eq_ofNat _

/-- Settles O23: a U16 value enters only through its low 16 bits, and joining the value bytes undoes splitting them. -/
theorem valueWraps : Obligations.ValueWraps := by
  refine ⟨fun s u i x v => ?_, fun u i x v => ?_, fun u i x v => ?_, ?_⟩
  · rw [exec_enc, exec_enc, encodeFrame_u16_mod]
  · refine ⟨hi8 (v.setWidth 16), lo8 (v.setWidth 16), _, _, rfl, ?_⟩
    rw [ofBe16_be16, BitVec.toNat_setWidth]
  · exact ⟨_, _, _, _, _, _, rfl, ofBe32_be32 v⟩
  · decide

/-- Settles O20: `ENC` is one fill of `TXBUF` under the `BUSY` check. -/
theorem encEffect : Obligations.EncEffect := by
  refine ⟨fun s u i x d v hidle => ?_, fun s u i x d v hawait => ?_, fun cw raw hop hmbz => ?_, ?_⟩
  · have hlen := length_encodeFrame_le u i x d v
    refine ⟨_, by rw [exec_enc, State.unlessBusy_idle hidle], fun a ha => ?_, fun a ha => ?_, ?_, rfl⟩
    · exact Memory.read_fill _ _ _ hlen a ha
    · exact Memory.read_fill_ge _ _ _ hlen a ha
    · exact State.toNat_txLen_putFrame s hlen
  · exact State.unlessBusy_await hawait _
  · exact decodeCommand_enc raw hop hmbz
  · exact encodeFrame_scenario

/-- Settles O22: the frame's length is the one its data type declares. -/
theorem encodeLength : Obligations.EncodeLength := by
  intro u i x d v
  rw [length_encodeFrame]
  cases d <;> rfl

end Sys2Proof.Machine
end

section
/-! The residue of a CRC (40_crc16 R109): the byte step is injective in the register, so two bytes bring it to 0 only if they
are its own, low byte first. -/

namespace Sys2Proof.Machine

/-- The polynomial's top bit marks every bit step that shifts out a 1. -/
theorem crcBit_eq_zero {c : Word16} (h : crcBit c = 0) : c = 0 := by
  rw [crcBit] at h
  cases hlow : c.getLsbD 0 with
  | true =>
    rw [hlow, if_pos rfl] at h
    have htop := congrArg (·.getLsbD 15) h
    simp at htop
  | false =>
    rw [hlow, if_neg Bool.false_ne_true] at h
    refine BitVec.eq_of_getLsbD_eq fun i _ => ?_
    cases i with
    | zero => simpa using hlow
    | succ j =>
      have hj := congrArg (·.getLsbD j) h
      simpa [Nat.add_comm] using hj

theorem crcBits_eq_zero {n : Nat} {c : Word16} (h : crcBits n c = 0) : c = 0 := by
  induction n generalizing c with
  | zero => exact h
  | succ n ih => exact crcBit_eq_zero (ih h)

theorem crcUpdate_left_inj {b : Byte} {c d : Word16} : crcUpdate c b = crcUpdate d b ↔ c = d := by
  refine ⟨fun h => ?_, congrArg (crcUpdate · b)⟩
  have hdiff : crcBits 8 ((c ^^^ b.zeroExtend 16) ^^^ (d ^^^ b.zeroExtend 16)) = 0 := by
    rw [crcBits_xor]
    exact BitVec.xor_eq_zero_iff.2 h
  exact (BitVec.xor_left_inj _).1 (BitVec.xor_eq_zero_iff.1 (crcBits_eq_zero hdiff))

/-- Two bytes bring the register to 0 exactly when they are its own, low byte first (40_crc16 R109). -/
theorem crcUpdate_crcUpdate_eq_zero {c : Word16} {lo hi : Byte} :
    crcUpdate (crcUpdate c lo) hi = 0 ↔ c = ofLe16 lo hi := by
  have hown : crcUpdate (ofLe16 lo hi) lo = hi.zeroExtend 16 := by
    have h := crcUpdate_lo8 (ofLe16 lo hi)
    rwa [lo8_ofLe16, hi8_ofLe16] at h
  rw [← crcUpdate_zeroExtend hi, crcUpdate_left_inj, ← hown, crcUpdate_left_inj]

/-- The residue test of a message with two bytes appended (40_crc16 R109). -/
theorem crc16_append_pair_eq_zero {body : List Byte} {lo hi : Byte} :
    crc16 (body ++ [lo, hi]) = 0 ↔ crc16 body = ofLe16 lo hi := by
  rw [← crcUpdate_crcUpdate_eq_zero, ← crc16_snoc, ← crc16_snoc, List.append_assoc]
  rfl

end Sys2Proof.Machine
end

section
/-! The decoder and validator (42_decoder): what each flag of a response says, `DEC` in every state with the words that encode
it, and the result registers after `DEC` and `RESP`. -/

namespace Sys2Proof

open Machine

/-- The words of `DEC` (30_encoding R85). -/
theorem decodeCommand_dec {cw : Word64} (raw : Word64) (hop : cw.extractLsb' 60 4 = 6#4)
    (hmbz : cw.extractLsb' 0 56 = 0#56) (hlen : (cw.extractLsb' 56 4).toNat ≤ 8) :
    decodeCommand cw raw = .ok (.dec (rawBytes (cw.extractLsb' 56 4).toNat raw)) := by
  rw [decodeCommand_eq, if_neg (by simp [hop]), if_neg (by simp [hop]), if_neg (by simp [hop]), if_neg (by simp [hop]),
    if_neg (by simp [hop]), if_pos hop, if_pos hmbz, if_pos hlen]

end Sys2Proof

namespace Sys2Proof.Machine

/-! The flags of a response -/

@[simp] theorem successOf_eq_true {raw : List Byte} : successOf raw = true ↔ 0 < raw.length := decide_eq_true_iff

@[simp] theorem vLenOf_eq_true {raw : List Byte} : vLenOf raw = true ↔ 4 ≤ raw.length := decide_eq_true_iff

@[simp] theorem vFcOf_eq_true {raw : List Byte} {fc : Option Byte} :
    vFcOf raw fc = true ↔ ∃ b, fc = some b ∧ raw[1]? = some b := by
  cases fc <;> simp [vFcOf]

/-- A response long enough to be checked is a body and its last two bytes. -/
theorem exists_eq_append_pair {raw : List Byte} (h : 2 ≤ raw.length) :
    ∃ (body : List Byte) (lo hi : Byte), raw = body ++ [lo, hi] := by
  obtain ⟨lo, hi, hlast⟩ := List.length_eq_two.1 (show (raw.drop (raw.length - 2)).length = 2 by simp; omega)
  exact ⟨raw.take (raw.length - 2), lo, hi, by rw [← hlast, List.take_append_drop]⟩

/-- `V_CRC` of a body with two bytes appended (42_decoder R144). -/
theorem vCrcOf_append_pair {body : List Byte} {lo hi : Byte} :
    vCrcOf (body ++ [lo, hi]) = true ↔ 4 ≤ (body ++ [lo, hi]).length ∧ crc16 body = ofLe16 lo hi := by
  simp [vCrcOf]

theorem eq_ofLe16_iff {c : Word16} {lo hi : Byte} : c = ofLe16 lo hi ↔ lo = lo8 c ∧ hi = hi8 c := by
  constructor
  · rintro rfl
    simp
  · rintro ⟨rfl, rfl⟩
    simp

/-- `V_CRC` by the last two bytes, low byte first (42_decoder R144). -/
theorem vCrcOf_eq_true_iff_bytes {raw : List Byte} :
    vCrcOf raw = true ↔
      4 ≤ raw.length ∧
        raw[raw.length - 2]? = some (lo8 (crc16 (raw.take (raw.length - 2)))) ∧
        raw[raw.length - 1]? = some (hi8 (crc16 (raw.take (raw.length - 2)))) := by
  by_cases hlen : 4 ≤ raw.length
  · obtain ⟨body, lo, hi, rfl⟩ := exists_eq_append_pair (show 2 ≤ raw.length by omega)
    rw [vCrcOf_append_pair, eq_ofLe16_iff]
    simp
  · simp [vCrcOf, hlen]

/-- `V_CRC` as the residue test (42_decoder R144). -/
theorem vCrcOf_eq_true_iff_residue {raw : List Byte} :
    vCrcOf raw = true ↔ 4 ≤ raw.length ∧ crc16 raw = 0 := by
  by_cases hlen : 4 ≤ raw.length
  · obtain ⟨body, lo, hi, rfl⟩ := exists_eq_append_pair (show 2 ≤ raw.length by omega)
    rw [vCrcOf_append_pair, crc16_append_pair_eq_zero]
  · simp [vCrcOf, hlen]

/-- No bytes: the result registers of `raise NoResponse()` (42_decoder R142). -/
theorem decodeExchange_nil (fc : Option Byte) :
    decodeExchange [] fc = ⟨false, .noResponse, [], false, false, false, false⟩ := by
  cases fc <;> rfl

/-- The source's scenario S7 answered by its echo (42_decoder R141). -/
theorem decodeExchange_scenario :
    decodeExchange [0x01, 0x06, 0x00, 0x00, 0x00, 0x01, 0x48, 0x0A] (some 0x06) =
      ⟨true, .noError, [0x01, 0x06, 0x00, 0x00, 0x00, 0x01, 0x48, 0x0A], true, true, true, true⟩ := by
  have hcrc : vCrcOf ([0x01, 0x06, 0x00, 0x00, 0x00, 0x01] ++ [0x48, 0x0A]) = true :=
    vCrcOf_append_pair.2 ⟨by decide, by rw [crc16_scenarioBody]; decide⟩
  simp only [List.cons_append, List.nil_append] at hcrc
  rw [decodeExchange, hcrc]
  rfl

/-! `DEC` and `RESP` -/

theorem exec_dec (bs : List Byte) (s : State) : exec (.dec bs) s = execDec bs s := rfl

theorem exec_resp (bs : List Byte) (s : State) : exec (.resp bs) s = execResp bs s := rfl

/-- `BAD_LEN` is checked first, whatever `SESS` is (42_decoder R141). -/
theorem exec_dec_of_long {s : State} {bs : List Byte} (hlen : 8 < bs.length) :
    exec (.dec bs) s = .next (s.refuse .badLen) := by
  rw [exec_dec, execDec, if_pos hlen]

theorem exec_dec_of_await {s : State} {bs : List Byte} (hlen : bs.length ≤ 8) (hawait : s.sess = .await) :
    exec (.dec bs) s = .next (s.refuse .busy) := by
  rw [exec_dec, execDec, if_neg (Nat.not_lt.2 hlen), State.unlessBusy_await hawait]

/-- `DEC` where the block is idle: what `decode` gives, stored and returned (42_decoder R141). -/
theorem exec_dec_eq_next_iff {s t : State} {bs : List Byte} (hlen : bs.length ≤ 8) (hidle : s.sess = .idle) :
    exec (.dec bs) s = .next t ↔
      ∃ fc, s.requestFc = .ok fc ∧
        t = (s.putResponse (decodeExchange bs fc)).pushResult (.okExchange (successOf bs) bs (errKindOf bs)) := by
  rw [exec_dec, execDec, if_neg (Nat.not_lt.2 hlen), State.unlessBusy_idle hidle]
  cases s.requestFc with
  | error f => simp
  | ok fc => simp [eq_comm]

/-- `RESP` completes only in `AWAIT`, as the step `SEND.RX` on its first 8 bytes (43_session R163). -/
theorem exec_resp_eq_next_iff {s t : State} {bs : List Byte} :
    exec (.resp bs) s = .next t ↔
      s.sess = .await ∧ ∃ fc, s.requestFc = .ok fc ∧ t = s.sendRx (readCut bs) fc := by
  rw [exec_resp, execResp]
  cases s.sess with
  | idle => simp
  | await =>
    cases s.requestFc with
    | error f => simp
    | ok fc => simp [eq_comm]

/-- `RXLEN` holds the length of a response of at most 8 bytes without loss. -/
theorem State.toNat_rxLen_putResponse (s : State) {r : ExchangeRecord} (hl : r.resp.length ≤ 8) :
    (s.putResponse r).rxLen.toNat = r.resp.length := by
  rw [State.putResponse_rxLen, BitVec.toNat_ofNat]
  omega

/-- Storing an empty response makes the writes of `raise NoResponse()` (42_decoder R141). -/
theorem State.putResponse_decodeExchange_nil (s : State) (fc : Option Byte) :
    s.putResponse (decodeExchange [] fc) = s.raiseError .noResponse := by
  rw [decodeExchange_nil]
  rfl

/-- Settles O28: the two forms of `V_CRC` are facts about a body with its last two bytes, the residue form by the
injectivity of the byte step. -/
theorem validatorFlags : Obligations.ValidatorFlags := fun _ _ =>
  ⟨vLenOf_eq_true, vCrcOf_eq_true_iff_bytes, vCrcOf_eq_true_iff_residue, vFcOf_eq_true, rfl⟩

/-- Settles O27: both operations store `success` of the bytes they take, and the cut to 8 bytes keeps a response non-empty. -/
theorem successIsNonEmpty : Obligations.SuccessIsNonEmpty := by
  refine ⟨fun raw fc => ⟨successOf_eq_true, rfl⟩, fun s t raw hidle hlen ht => ?_, fun s t raw ht => ?_⟩
  · obtain ⟨fc, -, rfl⟩ := (exec_dec_eq_next_iff hlen hidle).1 ht
    exact successOf_eq_true
  · obtain ⟨-, fc, -, rfl⟩ := exec_resp_eq_next_iff.1 ht
    rw [State.sendRx_success, successOf_eq_true, readCut, List.length_take]
    simp [Config.rxMax]

/-- Settles O26: `DEC` is one fill of `RXBUF` and the registers `decode` gives, under the two refusals in their order. -/
theorem decEffect : Obligations.DecEffect := by
  refine ⟨fun s bs hlen => exec_dec_of_long hlen, fun s bs hlen hawait => exec_dec_of_await hlen hawait,
    fun s bs fc hlen hidle hfc => ?_, fun s hidle hok => ?_, fun cw raw hop hmbz hlen => ?_, decodeExchange_scenario⟩
  · refine ⟨_, (exec_dec_eq_next_iff hlen hidle).2 ⟨fc, State.requestFc_ok.2 hfc, rfl⟩, fun a ha => ?_, fun a ha => ?_,
      ?_, rfl⟩
    · exact Memory.read_fill _ _ _ hlen a ha
    · exact Memory.read_fill_ge _ _ _ hlen a ha
    · exact State.toNat_rxLen_putResponse s hlen
  · cases hfc : s.requestFc with
    | error f => simp [hfc, Except.isOk, Except.toBool] at hok
    | ok fc =>
      refine (exec_dec_eq_next_iff (by simp) hidle).2 ⟨fc, hfc, ?_⟩
      rw [State.putResponse_decodeExchange_nil]
      rfl
  · refine ⟨_, decodeCommand_dec raw hop hmbz hlen, ?_, fun i hi => ?_⟩
    · rw [length_rawBytes, Nat.min_eq_left hlen]
    · rw [length_rawBytes] at hi
      exact getElem?_rawBytes _ _ _ (by omega) (by omega)

end Sys2Proof.Machine
end

section
/-! The exchange sequencer's host operations (43_session section 4): the word of `RESET`, and what every other host command
is while the read is owed. -/

namespace Sys2Proof

open Machine

/-- The word of `RESET` (30_encoding R85). -/
theorem decodeCommand_reset {cw : Word64} (raw : Word64) (hop : cw.extractLsb' 60 4 = 7#4)
    (hmbz : cw.extractLsb' 0 60 = 0#60) : decodeCommand cw raw = .ok .reset := by
  rw [decodeCommand_eq, if_neg (by simp [hop]), if_neg (by simp [hop]), if_neg (by simp [hop]), if_neg (by simp [hop]),
    if_neg (by simp [hop]), if_neg (by simp [hop]), if_pos hop, if_pos hmbz]

end Sys2Proof

namespace Sys2Proof.Machine

/-- `STATUS` after the block's reset (10_state R37, 43_session R170). -/
theorem State.status_resetBlock (s : State) : s.resetBlock.status = 0x0000 :=
  calc
    s.resetBlock.status = State.reset.status := rfl
    _ = 0x0000 := by decide

/-- In `AWAIT` every host command but `RESET` is refused: `BUSY`, or `BAD_LEN` where `DEC` has too many bytes, which is
checked first (10_state R23, 42_decoder R141). -/
theorem exec_command_of_await {s : State} {i : Instr} {cw raw : Word64} (hawait : s.sess = .await)
    (hcommand : encode i = .command cw raw) (hreset : i ≠ .reset) :
    exec i s = .next (s.refuse (if i.WellFormed then .busy else .badLen)) := by
  cases i with
  | crcInit | crcUpdate _ | crcRead | enc _ _ _ _ _ | send => exact State.unlessBusy_await hawait _
  | dec bs =>
    by_cases hlen : bs.length ≤ 8
    · rw [if_pos (wellFormed_dec.2 hlen), exec_dec_of_await hlen hawait]
    · rw [if_neg (hlen ∘ wellFormed_dec.1), exec_dec_of_long (Nat.lt_of_not_le hlen)]
  | reset => exact absurd rfl hreset
  | wr16 _ _ _ _ _ _ | wr32 _ _ _ _ _ _ | resp _ => cases hcommand

/-- Settles O11: `RESET` is the block's reset in every state, and every other host command is refused in `AWAIT`. -/
theorem resetCommand : Obligations.ResetCommand := by
  refine ⟨fun s => ⟨_, exec_reset s, rfl, ?_, ?_⟩, fun s i cw raw hawait hcommand hreset => ?_, fun raw => ?_⟩
  · exact State.status_resetBlock s
  · rfl
  · exact ⟨_, exec_command_of_await hawait hcommand hreset⟩
  · exact decodeCommand_reset raw (by decide) (by decide)

end Sys2Proof.Machine
end

section
/-! The writes of `raise` (60_exceptions R187): `RXBUF` is filled with no bytes, so each of its 8 addresses loses its value. -/

namespace Sys2Proof.Machine

/-- A raised error leaves no value at any address of `RXBUF`. -/
theorem State.read_rxBuf_raiseError_of_lt (s : State) (k : ErrKind) {a : Nat} (ha : a < 8) :
    (s.raiseError k).rxBuf.read a = none := by
  rw [State.raiseError_rxBuf, Memory.read_fill _ _ _ (Nat.zero_le _) a ha, List.getElem?_nil]

/-- Beyond the addresses of `RXBUF` a raised error changes nothing. -/
theorem State.read_rxBuf_raiseError_of_le (s : State) (k : ErrKind) {a : Nat} (ha : 8 ≤ a) :
    (s.raiseError k).rxBuf.read a = s.rxBuf.read a := by
  rw [State.raiseError_rxBuf, Memory.read_fill_ge _ _ _ (Nat.zero_le _) a ha]

/-- Settles O40: `raise` empties `RXBUF`, and the registers it writes are named in its definition, whatever the kind. -/
theorem raiseWrites : Obligations.RaiseWrites := fun s k _ =>
  ⟨fun _ ha => s.read_rxBuf_raiseError_of_lt k ha, fun _ ha => s.read_rxBuf_raiseError_of_le k ha, rfl⟩

end Sys2Proof.Machine
end

section
/-! The codec of the host port (30_encoding R85 to R87): the fields of a word that is put together from fields, what each
decoding says of the word, and the declined words by their fields and by the rows of the opcode table. -/

namespace Sys2Proof.Machine

/-! Fields of a word -/

@[simp] theorem extractLsb'_fieldAt_self {w pos n : Nat} (b : BitVec n) (h : pos + n ≤ w) :
    (fieldAt w pos b).extractLsb' pos n = b := by
  refine BitVec.eq_of_getLsbD_eq fun i hi => ?_
  have hlt : pos + i < w := by omega
  simp [hi, hlt]

/-- A field that stands above the bits taken leaves them 0. -/
@[simp] theorem extractLsb'_fieldAt_of_le {w pos n start len : Nat} (b : BitVec n) (h : start + len ≤ pos) :
    (fieldAt w pos b).extractLsb' start len = 0#len := by
  refine BitVec.eq_of_getLsbD_eq fun i hi => ?_
  have hlt : ¬ pos ≤ start + i := by omega
  simp [BitVec.getLsbD_extractLsb', hlt]

/-- A field that stands below the bits taken leaves them 0. -/
@[simp] theorem extractLsb'_fieldAt_of_ge {w pos n start len : Nat} (b : BitVec n) (h : pos + n ≤ start) :
    (fieldAt w pos b).extractLsb' start len = 0#len := by
  refine BitVec.eq_of_getLsbD_eq fun i hi => ?_
  have hge : n ≤ start + i - pos := by omega
  simp [BitVec.getLsbD_extractLsb', BitVec.getLsbD_of_ge b _ hge]

/-- Two words agree on two fields side by side when they agree on each. -/
theorem extractLsb'_add_eq {w k m n : Nat} {x y : BitVec w} (hlo : x.extractLsb' k m = y.extractLsb' k m)
    (hhi : x.extractLsb' (k + m) n = y.extractLsb' (k + m) n) : x.extractLsb' k (n + m) = y.extractLsb' k (n + m) := by
  rw [← BitVec.extractLsb'_append_extractLsb'_eq_extractLsb' rfl,
    ← BitVec.extractLsb'_append_extractLsb'_eq_extractLsb' rfl, hlo, hhi]

/-- A command word is its operation code and its other 60 bits. -/
theorem commandWord_eq {x y : Word64} (hop : x.extractLsb' 60 4 = y.extractLsb' 60 4)
    (hrest : x.extractLsb' 0 60 = y.extractLsb' 0 60) : x = y := by
  have h := extractLsb'_add_eq (k := 0) (m := 60) (n := 4) hrest hop
  simpa using h

@[simp] theorem dtypeOfBit_bitOfDType (d : DType) : dtypeOfBit (bitOfDType d)[0] = d := by
  cases d <;> rfl

theorem bitOfDType_dtypeOfBit {w : Nat} (x : BitVec w) (i : Nat) :
    bitOfDType (dtypeOfBit (x.getLsbD i)) = x.extractLsb' i 1 := by
  refine BitVec.eq_of_getLsbD_eq fun k hk => ?_
  obtain rfl : k = 0 := by omega
  cases h : x.getLsbD i <;> simp [dtypeOfBit, bitOfDType, h]

theorem toNat_ofNat_length {bs : List Byte} (h : bs.length ≤ 8) : (BitVec.ofNat 4 bs.length).toNat = bs.length := by
  rw [BitVec.toNat_ofNat]
  omega

end Sys2Proof.Machine

namespace Sys2Proof

open Machine

/-- The word of `SEND` (30_encoding R85). -/
theorem decodeCommand_send {cw : Word64} (raw : Word64) (hop : cw.extractLsb' 60 4 = 5#4)
    (hmbz : cw.extractLsb' 0 60 = 0#60) : decodeCommand cw raw = .ok .send := by
  rw [decodeCommand_eq, if_neg (by simp [hop]), if_neg (by simp [hop]), if_neg (by simp [hop]), if_neg (by simp [hop]),
    if_pos hop, if_pos hmbz]

/-! Decoding what has been encoded, at each port -/

theorem decodeCommand_of_encode {i : Instr} {cw raw : Word64} (hwf : i.WellFormed) (h : encode i = .command cw raw) :
    decodeCommand cw raw = .ok i := by
  cases i with
  | crcInit => cases h; exact decodeCommand_crcInit _ (by decide) (by decide)
  | crcRead => cases h; exact decodeCommand_crcRead _ (by decide) (by decide)
  | send => cases h; exact decodeCommand_send _ (by decide) (by decide)
  | reset => cases h; exact decodeCommand_reset _ (by decide) (by decide)
  | crcUpdate b =>
    cases h
    rw [decodeCommand_crcUpdate] <;> simp [opWord, BitVec.extractLsb'_or]
  | enc u a x d v =>
    cases h
    rw [decodeCommand_enc] <;> simp [opWord, BitVec.extractLsb'_or]
  | dec bs =>
    have hlen := wellFormed_dec.1 hwf
    cases h
    rw [decodeCommand_dec] <;>
      simp [opWord, BitVec.extractLsb'_or, toNat_ofNat_length hlen, hlen, rawBytes_packRaw]
  | wr16 _ _ _ _ _ _ | wr32 _ _ _ _ _ _ | resp _ => cases h

theorem decodeRequest_of_encode {i : Instr} {f : List Byte} (h : encode i = .request f) : decodeRequest f = .ok i := by
  cases i with
  | wr16 u a x v lo hi => cases h; exact decodeRequest_request16 u a x v lo hi
  | wr32 u a x v lo hi => cases h; exact decodeRequest_request32 u a x v lo hi
  | crcInit | crcUpdate _ | crcRead | enc _ _ _ _ _ | send | dec _ | reset | resp _ => cases h

theorem eq_resp_of_encode {i : Instr} {bs : List Byte} (h : encode i = .response bs) : i = .resp bs := by
  cases i with
  | resp _ => cases h; rfl
  | crcInit | crcUpdate _ | crcRead | enc _ _ _ _ _ | send | dec _ | reset | wr16 _ _ _ _ _ _ | wr32 _ _ _ _ _ _ => cases h

/-- Settles O1: each port's decoder undoes the encoding that goes to it. -/
theorem decodeEncodeRoundTrip : Obligations.DecodeEncodeRoundTrip := by
  intro i hwf
  cases h : encode i with
  | command cw raw => rw [decode, decodeCommand_of_encode hwf h]
  | request f => exact decodeRequest_of_encode h
  | response bs =>
    obtain rfl := eq_resp_of_encode h
    exact if_pos (wellFormed_resp.1 hwf)

/-! The word of a decoded command -/

/-- What each decoding says of the word's operation code and must-be-zero bits (30_encoding R85, R86). -/
theorem fields_of_decodeCommand {cw raw : Word64} {i : Instr} (h : decodeCommand cw raw = .ok i) :
    match i with
    | .crcInit => cw.extractLsb' 60 4 = 1#4 ∧ cw.extractLsb' 0 60 = 0#60
    | .crcUpdate b => cw.extractLsb' 60 4 = 2#4 ∧ cw.extractLsb' 0 52 = 0#52 ∧ b = cw.extractLsb' 52 8
    | .crcRead => cw.extractLsb' 60 4 = 3#4 ∧ cw.extractLsb' 0 60 = 0#60
    | .enc u a x d v => cw.extractLsb' 60 4 = 4#4 ∧ cw.extractLsb' 33 3 = 0#3 ∧ u = cw.extractLsb' 52 8 ∧
        a = cw.extractLsb' 44 8 ∧ x = cw.extractLsb' 36 8 ∧ d = dtypeOfBit (cw.getLsbD 32) ∧ v = cw.extractLsb' 0 32
    | .send => cw.extractLsb' 60 4 = 5#4 ∧ cw.extractLsb' 0 60 = 0#60
    | .dec bs => cw.extractLsb' 60 4 = 6#4 ∧ cw.extractLsb' 0 56 = 0#56 ∧ bs.length = (cw.extractLsb' 56 4).toNat
    | .reset => cw.extractLsb' 60 4 = 7#4 ∧ cw.extractLsb' 0 60 = 0#60
    | .wr16 .. | .wr32 .. | .resp _ => False := by
  rw [decodeCommand_eq] at h
  repeat' split at h
  all_goals cases h
  all_goals simp_all

/-- A decoded command's own encoding has the same word (30_encoding R85). -/
theorem encode_of_decodeCommand {cw raw : Word64} {i : Instr} (h : decodeCommand cw raw = .ok i) :
    ∃ raw', encode i = .command cw raw' := by
  have hfields := fields_of_decodeCommand h
  cases i with
  | crcInit | crcRead | send | reset =>
    obtain ⟨hop, hmbz⟩ := hfields
    refine ⟨_, congrArg (Encoded.command · _) (commandWord_eq ?_ ?_)⟩ <;> simp [opWord, hop, hmbz]
  | crcUpdate b =>
    obtain ⟨hop, hmbz, rfl⟩ := hfields
    refine ⟨_, congrArg (Encoded.command · _) (commandWord_eq ?_ (extractLsb'_add_eq (m := 52) (n := 8) ?_ ?_))⟩ <;>
      simp [opWord, BitVec.extractLsb'_or, hop, hmbz]
  | dec bs =>
    obtain ⟨hop, hmbz, hlen⟩ := hfields
    have hfield : BitVec.ofNat 4 bs.length = cw.extractLsb' 56 4 := by rw [hlen, BitVec.ofNat_toNat, BitVec.setWidth_eq]
    refine ⟨_, congrArg (Encoded.command · _) (commandWord_eq ?_ (extractLsb'_add_eq (m := 56) (n := 4) ?_ ?_))⟩ <;>
      simp [opWord, BitVec.extractLsb'_or, hop, hmbz, hfield]
  | enc u a x d v =>
    obtain ⟨hop, hmbz, rfl, rfl, rfl, hd, rfl⟩ := hfields
    have hfield : bitOfDType d = cw.extractLsb' 32 1 := by rw [hd, bitOfDType_dtypeOfBit]
    refine ⟨_, congrArg (Encoded.command · _) (commandWord_eq ?_ (extractLsb'_add_eq (m := 52) (n := 8)
      (extractLsb'_add_eq (m := 44) (n := 8) (extractLsb'_add_eq (m := 36) (n := 8) (extractLsb'_add_eq (m := 33) (n := 3)
        (extractLsb'_add_eq (m := 32) (n := 1) ?_ ?_) ?_) ?_) ?_) ?_))⟩ <;>
      simp [opWord, BitVec.extractLsb'_or, hop, hmbz, hfield]
  | wr16 _ _ _ _ _ _ | wr32 _ _ _ _ _ _ | resp _ => exact hfields.elim

theorem wellFormed_of_decodeCommand {cw raw : Word64} {i : Instr} (h : decodeCommand cw raw = .ok i) : i.WellFormed := by
  rcases decodeCommand_ok h with rfl | ⟨_, rfl⟩ | rfl | ⟨_, _, _, _, _, rfl⟩ | rfl | ⟨_, rfl, hlen⟩ | rfl
  case inr.inr.inr.inr.inr.inl => exact wellFormed_dec.2 hlen
  all_goals rfl

/-- Settles O2: the word of a decoded command is put together from the fields the decoder read, so encoding gives it back. -/
theorem commandWordDetermined : Obligations.CommandWordDetermined := by
  intro cw raw i h
  have hwf := wellFormed_of_decodeCommand h
  obtain ⟨raw', hraw'⟩ := encode_of_decodeCommand h
  exact ⟨hwf, raw', hraw', decodeCommand_of_encode hwf hraw'⟩

/-! Declined words -/

/-- The seven operation codes, and the reserved ones (30_encoding R86). -/
theorem opCode_cases (op : BitVec 4) :
    op = 1 ∨ op = 2 ∨ op = 3 ∨ op = 4 ∨ op = 5 ∨ op = 6 ∨ op = 7 ∨
      ((op = 0 ∨ 8 ≤ op.toNat) ∧ op ≠ 1 ∧ op ≠ 2 ∧ op ≠ 3 ∧ op ≠ 4 ∧ op ≠ 5 ∧ op ≠ 6 ∧ op ≠ 7) := by
  revert op
  decide

/-- Settles O4: each operation code leaves the decoder one check of must-be-zero bits, and `DEC` one of `len`. -/
theorem declinedCommandWords : Obligations.DeclinedCommandWords := by
  intro cw raw
  rw [decodeCommand_eq]
  generalize cw.extractLsb' 60 4 = op
  rcases opCode_cases op with rfl | rfl | rfl | rfl | rfl | rfl | rfl | ⟨hreserved, h1, h2, h3, h4, h5, h6, h7⟩
  case inr.inr.inr.inr.inr.inl =>
    by_cases hmbz : cw.extractLsb' 0 56 = 0#56
    · generalize (cw.extractLsb' 56 4).toNat = len
      by_cases hlen : len ≤ 8
      · have hshort : ¬ 9 ≤ len := by omega
        simp [hmbz, hlen, hshort]
      · have hlong : 9 ≤ len := by omega
        simp [hmbz, hlen, hlong]
    · simp [hmbz]
  case inr.inr.inr.inr.inr.inr.inr => simp_all
  case inr.inl => by_cases hmbz : cw.extractLsb' 0 52 = 0#52 <;> simp [hmbz]
  case inr.inr.inr.inl => by_cases hmbz : cw.extractLsb' 33 3 = 0#3 <;> simp [hmbz]
  all_goals by_cases hmbz : cw.extractLsb' 0 60 = 0#60 <;> simp [hmbz]

theorem and_fieldAt_allOnes {w pos n : Nat} (x : BitVec w) :
    x &&& fieldAt w pos (BitVec.allOnes n) = fieldAt w pos (x.extractLsb' pos n) := by
  refine BitVec.eq_of_getLsbD_eq fun i hi => ?_
  by_cases hge : pos ≤ i
  · by_cases hlt : i - pos < n <;> simp [hi, hge, hlt]
  · simp [hge]

theorem fieldAt_zero (w pos n : Nat) : fieldAt w pos 0#n = 0#w := by
  simp [fieldAt]

/-- A row whose mask is the operation code and one field of must-be-zero bits covers the words that have that code and
those bits zero (30_encoding R93). -/
theorem Row.covers_eq_true {r : Row} {cw : Word64} {op : BitVec 4} {pos n : Nat} (h : pos + n ≤ 60)
    (hmask : BitVec.ofNat 64 r.mask = fieldAt 64 60 (BitVec.allOnes 4) ||| fieldAt 64 pos (BitVec.allOnes n))
    (hpattern : BitVec.ofNat 64 r.pattern = opWord op) :
    r.covers cw = true ↔ cw.extractLsb' 60 4 = op ∧ cw.extractLsb' pos n = 0#n := by
  have hmasked : cw &&& BitVec.ofNat 64 r.mask =
      fieldAt 64 60 (cw.extractLsb' 60 4) ||| fieldAt 64 pos (cw.extractLsb' pos n) := by
    rw [hmask, BitVec.and_or_distrib_left, and_fieldAt_allOnes, and_fieldAt_allOnes]
  rw [Row.covers, beq_iff_eq, hmasked, hpattern, opWord]
  constructor
  · intro heq
    have hop := congrArg (BitVec.extractLsb' 60 4) heq
    have hmbz := congrArg (BitVec.extractLsb' pos n) heq
    rw [BitVec.extractLsb'_or, extractLsb'_fieldAt_self _ (by decide), extractLsb'_fieldAt_of_ge _ h, BitVec.or_zero,
      extractLsb'_fieldAt_self _ (by decide)] at hop
    rw [BitVec.extractLsb'_or, extractLsb'_fieldAt_of_le _ h, extractLsb'_fieldAt_self _ (by omega), BitVec.zero_or,
      extractLsb'_fieldAt_of_le _ h] at hmbz
    exact ⟨hop, hmbz⟩
  · rintro ⟨rfl, hmbz⟩
    rw [hmbz, fieldAt_zero, BitVec.or_zero]

/-- The words that no host row covers, row by row. -/
theorem forall_hostRows_covers_eq_false (cw : Word64) :
    (∀ r ∈ hostRows, r.covers cw = false) ↔
      ¬(cw.extractLsb' 60 4 = 1 ∧ cw.extractLsb' 0 60 = 0#60) ∧ ¬(cw.extractLsb' 60 4 = 2 ∧ cw.extractLsb' 0 52 = 0#52) ∧
      ¬(cw.extractLsb' 60 4 = 3 ∧ cw.extractLsb' 0 60 = 0#60) ∧ ¬(cw.extractLsb' 60 4 = 4 ∧ cw.extractLsb' 33 3 = 0#3) ∧
      ¬(cw.extractLsb' 60 4 = 5 ∧ cw.extractLsb' 0 60 = 0#60) ∧ ¬(cw.extractLsb' 60 4 = 6 ∧ cw.extractLsb' 0 56 = 0#56) ∧
      ¬(cw.extractLsb' 60 4 = 7 ∧ cw.extractLsb' 0 60 = 0#60) := by
  have hinit := Row.covers_eq_true (r := ⟨"CRC.INIT", 0xFFFFFFFFFFFFFFFF, 0x1000000000000000⟩) (cw := cw) (op := 1) (pos := 0)
    (n := 60) (by decide) (by decide) (by decide)
  have hupdate := Row.covers_eq_true (r := ⟨"CRC.UPDATE", 0xF00FFFFFFFFFFFFF, 0x2000000000000000⟩) (cw := cw) (op := 2)
    (pos := 0) (n := 52) (by decide) (by decide) (by decide)
  have hread := Row.covers_eq_true (r := ⟨"CRC.READ", 0xFFFFFFFFFFFFFFFF, 0x3000000000000000⟩) (cw := cw) (op := 3) (pos := 0)
    (n := 60) (by decide) (by decide) (by decide)
  have henc := Row.covers_eq_true (r := ⟨"ENC", 0xF000000E00000000, 0x4000000000000000⟩) (cw := cw) (op := 4) (pos := 33)
    (n := 3) (by decide) (by decide) (by decide)
  have hsend := Row.covers_eq_true (r := ⟨"SEND", 0xFFFFFFFFFFFFFFFF, 0x5000000000000000⟩) (cw := cw) (op := 5) (pos := 0)
    (n := 60) (by decide) (by decide) (by decide)
  have hdec := Row.covers_eq_true (r := ⟨"DEC", 0xF0FFFFFFFFFFFFFF, 0x6000000000000000⟩) (cw := cw) (op := 6) (pos := 0)
    (n := 56) (by decide) (by decide) (by decide)
  have hreset := Row.covers_eq_true (r := ⟨"RESET", 0xFFFFFFFFFFFFFFFF, 0x7000000000000000⟩) (cw := cw) (op := 7) (pos := 0)
    (n := 60) (by decide) (by decide) (by decide)
  simp only [hostRows, List.forall_mem_cons, List.not_mem_nil, false_imp_iff, implies_true, and_true, ← Bool.not_eq_true,
    hinit, hupdate, hread, henc, hsend, hdec, hreset]

/-- Settles O3: the words that no row covers are those whose operation code is reserved or has a must-be-zero bit set. -/
theorem badOpIsNoTableRow : Obligations.BadOpIsNoTableRow := by
  intro cw raw
  obtain ⟨hbadOp, -, -, -⟩ := declinedCommandWords cw raw
  rw [hbadOp, forall_hostRows_covers_eq_false]
  generalize cw.extractLsb' 60 4 = op
  rcases opCode_cases op with rfl | rfl | rfl | rfl | rfl | rfl | rfl | ⟨hreserved, h1, h2, h3, h4, h5, h6, h7⟩
  case inr.inr.inr.inr.inr.inr.inr => simp_all
  all_goals simp

/-- Settles O5: the decoder run on the eight words. -/
theorem specWordsDecode : Obligations.SpecWordsDecode := by
  unfold Obligations.SpecWordsDecode
  decide

end Sys2Proof
end

section
/-! What every instruction can do: `Completes` lists the outcomes that are a next state, one constructor each, and the
statements over all instructions are read off that list. -/

namespace Sys2Proof.Machine

/-! Equations -/

/-- `SEND` in every state (43_session R161). -/
theorem exec_send (s : State) :
    exec .send s = s.unlessBusy (if s.txLen = 0 then .next (s.refuse .noFrame) else .next { s with sendAccepted := true }) :=
  rfl

theorem exec_wr16 (u a x : Byte) (v : Word16) (lo hi : Byte) (s : State) :
    exec (.wr16 u a x v lo hi) s = emitRequest (request16 u a x v lo hi) s := rfl

theorem exec_wr32 (u a x : Byte) (v : Word32) (lo hi : Byte) (s : State) :
    exec (.wr32 u a x v lo hi) s = emitRequest (request32 u a x v lo hi) s := rfl

/-- A request frame goes out where the step `SEND.TX` is enabled (43_session R162). -/
theorem emitRequest_of_enabled {s : State} (f : List Byte) (hidle : s.sess = .idle) (hacc : s.sendAccepted = true) :
    emitRequest f s = .next (s.sendTx f) := by
  simp [emitRequest, hidle, hacc]

/-- A request frame has no meaning elsewhere (log 22). -/
theorem emitRequest_of_not_enabled {s : State} (f : List Byte) (h : ¬(s.sess = .idle ∧ s.sendAccepted = true)) :
    emitRequest f s = .refused .sendTxNotEnabled := by
  cases hsess : s.sess <;> cases hacc : s.sendAccepted <;> simp_all [emitRequest]

/-- Everything a request frame can do. -/
theorem emitRequest_cases (f : List Byte) (s : State) :
    (s.sess = .idle ∧ s.sendAccepted = true) ∧ emitRequest f s = .next (s.sendTx f) ∨
    ¬(s.sess = .idle ∧ s.sendAccepted = true) ∧ emitRequest f s = .refused .sendTxNotEnabled := by
  by_cases h : s.sess = .idle ∧ s.sendAccepted = true
  · exact .inl ⟨h, emitRequest_of_enabled f h.1 h.2⟩
  · exact .inr ⟨h, emitRequest_of_not_enabled f h⟩

/-- A request frame runs as the bytes it was decoded from (30_encoding R78, log 11). -/
theorem exec_of_decodeRequest {f : List Byte} {i : Instr} (h : decodeRequest f = .ok i) (s : State) :
    exec i s = emitRequest f s := by
  rcases decodeRequest_ok h with ⟨u, a, x, v, lo, hi, rfl, rfl⟩ | ⟨u, a, x, v, lo, hi, rfl, rfl⟩ <;> rfl

/-! The channel's answer to a write -/

theorem State.writeOutcome_of_nextWrite {s : State} {a : WriteAnswer} {as : List WriteAnswer} {d : Nat}
    (h : s.NextWrite a as d) (f : List Byte) : s.writeOutcome f = writeOutcomeOf s.shortWritePolicy f.length a := by
  rw [State.writeOutcome, h.eq.1]

theorem State.chanWrite_of_nextWrite {s : State} {a : WriteAnswer} {as : List WriteAnswer} {d : Nat}
    (h : s.NextWrite a as d) (f : List Byte) :
    s.chanWrite f = { s with
      sendAccepted := false, writeAnswers := as, draws := d, wire := s.wire ++ [.write f] } := by
  rw [State.chanWrite, h.eq.2]
  rfl

/-- `SEND.TX` when the write succeeds (43_session R162). -/
theorem State.sendTx_of_takenAsWritten {s : State} {a : WriteAnswer} {as : List WriteAnswer} {d : Nat} {f : List Byte}
    (h : s.NextWrite a as d) (hw : TakenAsWritten s.shortWritePolicy f.length a) :
    s.sendTx f = { s with
      sess := .await, sendAccepted := false, writeAnswers := as, draws := d, wire := s.wire ++ [.write f] } := by
  rw [State.sendTx, State.writeOutcome_of_nextWrite h, hw.eq, State.chanWrite_of_nextWrite h]

/-- `SEND.TX` when the write fails (43_session R162). -/
theorem State.sendTx_of_takenAsError {s : State} {a : WriteAnswer} {as : List WriteAnswer} {d : Nat} {f : List Byte}
    (h : s.NextWrite a as d) (hw : TakenAsError s.shortWritePolicy f.length a) :
    s.sendTx f = { s.raiseError .channelIo with
      sess := .idle, sendAccepted := false, writeAnswers := as, draws := d, wire := s.wire ++ [.write f],
      results := s.results ++ [.okExchange false [] .channelIo] } := by
  rw [State.sendTx, State.writeOutcome_of_nextWrite h, hw.eq, State.chanWrite_of_nextWrite h]
  rfl

/-! What `SEND.TX` leaves as it is, whatever the channel answers -/

section
variable (s : State) (f : List Byte)

@[simp] theorem State.sendTx_crc : (s.sendTx f).crc = s.crc := by
  rcases s.sendTx_cases f with ⟨-, h⟩ | ⟨-, h⟩ <;> simp [h]

@[simp] theorem State.sendTx_txBuf : (s.sendTx f).txBuf = s.txBuf := by
  rcases s.sendTx_cases f with ⟨-, h⟩ | ⟨-, h⟩ <;> simp [h]

@[simp] theorem State.sendTx_txLen : (s.sendTx f).txLen = s.txLen := by
  rcases s.sendTx_cases f with ⟨-, h⟩ | ⟨-, h⟩ <;> simp [h]

@[simp] theorem State.sendTx_shortWritePolicy : (s.sendTx f).shortWritePolicy = s.shortWritePolicy := by
  rcases s.sendTx_cases f with ⟨-, h⟩ | ⟨-, h⟩ <;> simp [h]

@[simp] theorem State.sendTx_sendAccepted : (s.sendTx f).sendAccepted = false := by
  rcases s.sendTx_cases f with ⟨-, h⟩ | ⟨-, h⟩ <;> simp [h]

@[simp] theorem State.sendTx_commands : (s.sendTx f).commands = s.commands := by
  rcases s.sendTx_cases f with ⟨-, h⟩ | ⟨-, h⟩ <;> simp [h]

@[simp] theorem State.sendTx_readAnswers : (s.sendTx f).readAnswers = s.readAnswers := by
  rcases s.sendTx_cases f with ⟨-, h⟩ | ⟨-, h⟩ <;> simp [h]

@[simp] theorem State.sendTx_wire : (s.sendTx f).wire = s.wire ++ [.write f] := by
  rcases s.sendTx_cases f with ⟨-, h⟩ | ⟨-, h⟩ <;> simp [h]

/-- The CRC register goes through `SEND.TX` unread (40_crc16 section 3). -/
theorem State.sendTx_setCrc (c : CrcWord) : State.sendTx { s with crc := c } f = { s.sendTx f with crc := c } := by
  have hoc : State.writeOutcome { s with crc := c } f = s.writeOutcome f := rfl
  rw [State.sendTx, State.sendTx, hoc]
  cases s.writeOutcome f <;> rfl

end

/-! All outcomes that are a next state -/

/-- `Completes s i t`: the instruction `i` takes the state `s` to the state `t`, by one of the outcomes that the spec gives
it (10_state R23, 40_crc16, 41_encoder R122, 42_decoder R141, 43_session R161 to R163, R170). -/
inductive Completes (s : State) : Instr → State → Prop where
  | busy {i cw raw} (hawait : s.sess = .await) (hcommand : encode i = .command cw raw) (hreset : i ≠ .reset)
      (hwf : i.WellFormed) : Completes s i (s.refuse .busy)
  | badLen {bs} (hlen : 8 < bs.length) : Completes s (.dec bs) (s.refuse .badLen)
  | noFrame (hidle : s.sess = .idle) (hframe : s.txLen = 0) : Completes s .send (s.refuse .noFrame)
  | crcInit (hidle : s.sess = .idle) :
      Completes s .crcInit { s with crc := 0xFFFF, results := s.results ++ [.ok] }
  | crcUpdate {b} (hidle : s.sess = .idle) :
      Completes s (.crcUpdate b) { s with crc := crcUpdate s.crc b, results := s.results ++ [.ok] }
  | crcRead (hidle : s.sess = .idle) :
      Completes s .crcRead { s with results := s.results ++ [.okCrc s.crc (lo8 s.crc) (hi8 s.crc)] }
  | enc {u a x d v} (hidle : s.sess = .idle) : Completes s (.enc u a x d v)
      ((s.putFrame (encodeFrame u a x d v)).pushResult (.okFrame (encodeFrame u a x d v)))
  | send (hidle : s.sess = .idle) (hframe : s.txLen ≠ 0) : Completes s .send { s with sendAccepted := true }
  | dec {bs fc} (hidle : s.sess = .idle) (hlen : bs.length ≤ 8) (hfc : s.requestFc = .ok fc) : Completes s (.dec bs)
      ((s.putResponse (decodeExchange bs fc)).pushResult (.okExchange (successOf bs) bs (errKindOf bs)))
  | reset : Completes s .reset (s.resetBlock.pushResult .ok)
  | wr16 {u a x v lo hi} (hidle : s.sess = .idle) (hacc : s.sendAccepted = true) :
      Completes s (.wr16 u a x v lo hi) (s.sendTx (request16 u a x v lo hi))
  | wr32 {u a x v lo hi} (hidle : s.sess = .idle) (hacc : s.sendAccepted = true) :
      Completes s (.wr32 u a x v lo hi) (s.sendTx (request32 u a x v lo hi))
  | resp {bs fc} (hawait : s.sess = .await) (hfc : s.requestFc = .ok fc) :
      Completes s (.resp bs) (s.sendRx (readCut bs) fc)

/-- An instruction answers a next state exactly by the outcomes listed. -/
theorem exec_eq_next_iff {i : Instr} {s t : State} : exec i s = .next t ↔ Completes s i t := by
  constructor
  · intro h
    cases i with
    | reset => cases h; exact .reset
    | resp bs =>
      obtain ⟨hawait, fc, hfc, rfl⟩ := exec_resp_eq_next_iff.1 h
      exact .resp hawait hfc
    | wr16 u a x v lo hi =>
      rw [exec_wr16] at h
      rcases emitRequest_cases (request16 u a x v lo hi) s with ⟨⟨hidle, hacc⟩, he⟩ | ⟨-, he⟩ <;> rw [he] at h <;> cases h
      exact .wr16 hidle hacc
    | wr32 u a x v lo hi =>
      rw [exec_wr32] at h
      rcases emitRequest_cases (request32 u a x v lo hi) s with ⟨⟨hidle, hacc⟩, he⟩ | ⟨-, he⟩ <;> rw [he] at h <;> cases h
      exact .wr32 hidle hacc
    | dec bs =>
      by_cases hlen : bs.length ≤ 8
      · cases hsess : s.sess with
        | await =>
          rw [exec_dec_of_await hlen hsess] at h
          cases h
          exact .busy hsess rfl (by simp) (wellFormed_dec.2 hlen)
        | idle =>
          obtain ⟨fc, hfc, rfl⟩ := (exec_dec_eq_next_iff hlen hsess).1 h
          exact .dec hsess hlen hfc
      · have hlong : 8 < bs.length := by omega
        rw [exec_dec_of_long hlong] at h
        cases h
        exact .badLen hlong
    | send =>
      rcases s.unlessBusy_cases (if s.txLen = 0 then .next (s.refuse .noFrame) else .next { s with sendAccepted := true })
        with ⟨hawait, he⟩ | ⟨hidle, he⟩ <;> rw [exec_send, he] at h
      · cases h
        exact .busy hawait rfl (by simp) rfl
      · by_cases hframe : s.txLen = 0
        · rw [if_pos hframe] at h
          cases h
          exact .noFrame hidle hframe
        · rw [if_neg hframe] at h
          cases h
          exact .send hidle hframe
    | crcInit | crcUpdate b | crcRead | enc u a x d v =>
      cases hsess : s.sess with
      | await =>
        rw [exec_command_of_await hsess rfl (by simp)] at h
        cases h
        exact .busy hsess rfl (by simp) rfl
      | idle =>
        simp only [exec_crcInit, exec_crcUpdate, exec_crcRead, exec_enc, State.unlessBusy_idle hsess] at h
        cases h
        constructor
        exact hsess
  · intro h
    cases h with
    | busy hawait hcommand hreset hwf => rw [exec_command_of_await hawait hcommand hreset, if_pos hwf]
    | badLen hlen => exact exec_dec_of_long hlen
    | noFrame hidle hframe => rw [exec_send, State.unlessBusy_idle hidle, if_pos hframe]
    | send hidle hframe => rw [exec_send, State.unlessBusy_idle hidle, if_neg hframe]
    | crcInit hidle | crcUpdate hidle | crcRead hidle | enc hidle => exact State.unlessBusy_idle hidle _
    | dec hidle hlen hfc => exact (exec_dec_eq_next_iff hlen hidle).2 ⟨_, hfc, rfl⟩
    | reset => rfl
    | wr16 hidle hacc | wr32 hidle hacc => exact emitRequest_of_enabled _ hidle hacc
    | resp hawait hfc => exact exec_resp_eq_next_iff.2 ⟨hawait, _, hfc, rfl⟩

end Sys2Proof.Machine
end

section
/-! The statements over all instructions (10_state section 1, 43_session, 60_exceptions section 2): refusals, writers,
isolation of the CRC register, stops, and the wire instructions where their steps are enabled. -/

namespace Sys2Proof.Machine

/-- Settles O31: `SEND` checks `BUSY`, then the frame, and then only remembers that it was accepted. -/
theorem sendAcceptance : Obligations.SendAcceptance := by
  refine ⟨fun s hawait => State.unlessBusy_await hawait _, fun s hidle hframe => ?_, fun s hidle hframe => ?_, fun raw => ?_⟩
  · exact exec_eq_next_iff.2 (.noFrame hidle hframe)
  · exact exec_eq_next_iff.2 (.send hidle hframe)
  · exact decodeCommand_send raw (by decide) (by decide)

/-- Settles O41: the six host operations are well-formed commands other than `RESET`. -/
theorem busyWhileAwaiting : Obligations.BusyWhileAwaiting := by
  intro s i hawait hi
  refine exec_eq_next_iff.2 ?_
  rcases hi with rfl | ⟨b, rfl⟩ | rfl | ⟨u, a, x, d, v, rfl⟩ | rfl | ⟨bs, rfl, hlen⟩
  case inr.inr.inr.inr.inr => exact .busy hawait rfl (by simp) (wellFormed_dec.2 hlen)
  all_goals exact .busy hawait rfl (by simp) rfl

/-- `SEND.TX` returns no refusal: nothing, or a failed exchange. -/
theorem State.results_sendTx_ne_refused (s : State) (f : List Byte) (r : RefuseReason) :
    (s.sendTx f).results ≠ s.results ++ [.refused r] := by
  rcases s.sendTx_cases f with ⟨-, h⟩ | ⟨-, h⟩ <;> simp [h]

/-- A refusal is returned only where nothing else is written. -/
theorem Completes.eq_refuse {i : Instr} {s t : State} {r : RefuseReason} (h : Completes s i t)
    (hr : t.results = s.results ++ [.refused r]) : t = s.refuse r := by
  cases h with
  | busy | badLen | noFrame =>
    simp at hr
    rw [hr]
  | wr16 | wr32 => exact absurd hr (State.results_sendTx_ne_refused s _ r)
  | crcInit | crcUpdate | crcRead | enc | send | dec | reset | resp => simp at hr

/-- Settles O43: the outcomes that return a refusal are those that refuse. -/
theorem refusedChangesNothing : Obligations.RefusedChangesNothing := by
  intro i s t r ht hr
  exact (exec_eq_next_iff.1 ht).eq_refuse hr

/-- A request frame writes the response registers only when its write fails (60_exceptions section 2). -/
theorem State.errKind_sendTx_of_rx_changed {s : State} {f : List Byte}
    (h : (s.sendTx f).rxBuf ≠ s.rxBuf ∨ (s.sendTx f).rxLen ≠ s.rxLen ∨ (s.sendTx f).success ≠ s.success ∨
      (s.sendTx f).errKind ≠ s.errKind ∨ (s.sendTx f).vLen ≠ s.vLen ∨ (s.sendTx f).vCrc ≠ s.vCrc ∨
      (s.sendTx f).vFc ≠ s.vFc ∨ (s.sendTx f).valid ≠ s.valid) : (s.sendTx f).errKind = .channelIo := by
  rcases s.sendTx_cases f with ⟨-, htx⟩ | ⟨-, htx⟩
  · simp [htx] at h
  · simp [htx]

/-- Settles O44: the registers that each outcome writes. -/
theorem registerWriters : Obligations.RegisterWriters := by
  intro i s t ht
  cases exec_eq_next_iff.1 ht with
  | wr16 | wr32 => simpa using State.errKind_sendTx_of_rx_changed
  | busy | badLen | noFrame | crcInit | crcUpdate | crcRead | enc | send | dec | reset | resp => simp

/-- The encoder, the decoder and the sequencer neither write the CRC register nor read it. -/
theorem Completes.setCrc {i : Instr} {s t : State} (h : Completes s i t)
    (hi : i ≠ .crcInit ∧ (∀ b, i ≠ .crcUpdate b) ∧ i ≠ .crcRead ∧ i ≠ .reset) (c : CrcWord) :
    t.crc = s.crc ∧ Completes { s with crc := c } i { t with crc := c } := by
  obtain ⟨hinit, hupdate, hread, hreset⟩ := hi
  cases h with
  | busy hawait hcommand hreset hwf => exact ⟨rfl, .busy hawait hcommand hreset hwf⟩
  | badLen hlen => exact ⟨rfl, .badLen hlen⟩
  | noFrame hidle hframe => exact ⟨rfl, .noFrame hidle hframe⟩
  | enc hidle => exact ⟨rfl, .enc hidle⟩
  | send hidle hframe => exact ⟨rfl, .send hidle hframe⟩
  | dec hidle hlen hfc => exact ⟨rfl, .dec hidle hlen ((State.requestFc_congr rfl rfl).trans hfc)⟩
  | resp hawait hfc => exact ⟨rfl, .resp hawait ((State.requestFc_congr rfl rfl).trans hfc)⟩
  | wr16 hidle hacc =>
    rw [← State.sendTx_setCrc]
    exact ⟨State.sendTx_crc s _, .wr16 hidle hacc⟩
  | wr32 hidle hacc =>
    rw [← State.sendTx_setCrc]
    exact ⟨State.sendTx_crc s _, .wr32 hidle hacc⟩
  | crcInit => exact absurd rfl hinit
  | crcUpdate => exact absurd rfl (hupdate _)
  | crcRead => exact absurd rfl hread
  | reset => exact absurd rfl hreset

/-- Settles O46: each outcome of the encoder, the decoder and the sequencer is one for every value of `CRC`, and those of the
CRC operations name what they write. -/
theorem crcIsolation : Obligations.CrcIsolation := by
  refine ⟨fun i s t c hi ht => ?_, fun i s t hi ht => ?_⟩
  · have hother : i ≠ .crcInit ∧ (∀ b, i ≠ .crcUpdate b) ∧ i ≠ .crcRead ∧ i ≠ .reset := by
      rcases hi with ⟨_, _, _, _, _, rfl⟩ | ⟨_, rfl⟩ | rfl | ⟨_, _, _, _, _, _, rfl⟩ | ⟨_, _, _, _, _, _, rfl⟩ | ⟨_, rfl⟩ <;>
        simp
    obtain ⟨hcrc, hset⟩ := (exec_eq_next_iff.1 ht).setCrc hother c
    exact ⟨hcrc, exec_eq_next_iff.2 hset⟩
  · cases exec_eq_next_iff.1 ht with
    | busy | crcInit | crcUpdate | crcRead => rfl
    | badLen | noFrame | enc | send | dec | reset | wr16 | wr32 | resp => simp at hi

/-! Stops -/

/-- Every outcome of an instruction: a next state, or one of the three stops (93_implementation_defined section 1,
43_session R162, R163). -/
theorem exec_cases (i : Instr) (s : State) :
    (∃ t, exec i s = .next t) ∨
    (∃ f, exec i s = .fault f ∧ s.requestFc = .error f ∧ ((∃ bs, i = .dec bs) ∨ ∃ bs, i = .resp bs)) ∨
    (exec i s = .refused .sendTxNotEnabled ∧ ¬(s.sess = .idle ∧ s.sendAccepted = true) ∧
      ((∃ u a x v lo hi, i = .wr16 u a x v lo hi) ∨ ∃ u a x v lo hi, i = .wr32 u a x v lo hi)) ∨
    (exec i s = .refused .sendRxNotEnabled ∧ s.sess = .idle ∧ ∃ bs, i = .resp bs) := by
  cases i with
  | crcInit | crcUpdate _ | crcRead | enc _ _ _ _ _ =>
    rcases s.unlessBusy_cases _ with ⟨-, h⟩ | ⟨-, h⟩ <;> exact .inl ⟨_, h⟩
  | send =>
    rcases s.unlessBusy_cases _ with ⟨-, h⟩ | ⟨hidle, -⟩
    · exact .inl ⟨_, h⟩
    · by_cases hframe : s.txLen = 0
      · exact .inl ⟨_, exec_eq_next_iff.2 (.noFrame hidle hframe)⟩
      · exact .inl ⟨_, exec_eq_next_iff.2 (.send hidle hframe)⟩
  | reset => exact .inl ⟨_, exec_reset s⟩
  | dec bs =>
    by_cases hlen : bs.length ≤ 8
    · cases hsess : s.sess with
      | await => exact .inl ⟨_, exec_dec_of_await hlen hsess⟩
      | idle =>
        cases hfc : s.requestFc with
        | ok fc => exact .inl ⟨_, exec_eq_next_iff.2 (.dec hsess hlen hfc)⟩
        | error f =>
          refine .inr (.inl ⟨f, ?_, rfl, .inl ⟨bs, rfl⟩⟩)
          rw [exec_dec, execDec, if_neg (Nat.not_lt.2 hlen), State.unlessBusy_idle hsess, hfc]
    · exact .inl ⟨_, exec_dec_of_long (Nat.lt_of_not_le hlen)⟩
  | wr16 u a x v lo hi =>
    rcases emitRequest_cases (request16 u a x v lo hi) s with ⟨-, h⟩ | ⟨hdisabled, h⟩
    · exact .inl ⟨_, h⟩
    · exact .inr (.inr (.inl ⟨h, hdisabled, .inl ⟨_, _, _, _, _, _, rfl⟩⟩))
  | wr32 u a x v lo hi =>
    rcases emitRequest_cases (request32 u a x v lo hi) s with ⟨-, h⟩ | ⟨hdisabled, h⟩
    · exact .inl ⟨_, h⟩
    · exact .inr (.inr (.inl ⟨h, hdisabled, .inr ⟨_, _, _, _, _, _, rfl⟩⟩))
  | resp bs =>
    cases hsess : s.sess with
    | idle => exact .inr (.inr (.inr ⟨by rw [exec_resp, execResp, hsess], rfl, bs, rfl⟩))
    | await =>
      cases hfc : s.requestFc with
      | ok fc => exact .inl ⟨_, exec_eq_next_iff.2 (.resp hsess hfc)⟩
      | error f => exact .inr (.inl ⟨f, by rw [exec_resp, execResp, hsess, hfc], rfl, .inr ⟨bs, rfl⟩⟩)

/-- Settles O47: the three stops, and that the function code of a request can be read unless its byte holds no value. -/
theorem whereInstructionsStop : Obligations.WhereInstructionsStop := by
  refine ⟨fun i s f hf => ?_, fun i s r hr => ?_⟩
  · rcases exec_cases i s with ⟨t, h⟩ | ⟨g, h, hfc, hi⟩ | ⟨h, -⟩ | ⟨h, -⟩ <;> rw [hf] at h <;> cases h
    obtain ⟨hfault, hframe, hread⟩ := State.requestFc_error.1 hfc
    exact ⟨hfault, hframe, hread, hi⟩
  · rcases exec_cases i s with ⟨t, h⟩ | ⟨g, h, -⟩ | ⟨h, hdisabled, hi⟩ | ⟨h, hidle, hi⟩ <;> rw [hr] at h <;> cases h
    · exact .inl ⟨rfl, hdisabled, hi⟩
    · exact .inr ⟨rfl, hidle, hi⟩

/-! The wire instructions where their steps are enabled -/

/-- A request frame where `SEND.TX` is enabled is that step on its bytes, written out (30_encoding R76, R77). -/
theorem exec_requestFrame {s : State} {i : Instr} {f : List Byte}
    (h : (∃ u a x v lo hi, i = .wr16 u a x v lo hi ∧
        f = [u, 0x06, a, x, v.extractLsb' 8 8, v.extractLsb' 0 8, lo, hi]) ∨
      ∃ u a x v lo hi, i = .wr32 u a x v lo hi ∧
        f = [u, 0x03, a, x, v.extractLsb' 24 8, v.extractLsb' 16 8, v.extractLsb' 8 8, v.extractLsb' 0 8, lo, hi])
    (hidle : s.sess = .idle) (hacc : s.sendAccepted = true) : exec i s = .next (s.sendTx f) := by
  rcases h with ⟨u, a, x, v, lo, hi, rfl, rfl⟩ | ⟨u, a, x, v, lo, hi, rfl, rfl⟩
  · exact exec_eq_next_iff.2 (.wr16 hidle hacc)
  · exact exec_eq_next_iff.2 (.wr32 hidle hacc)

/-- Settles O32: the frame is one `SEND.TX`, whose two outcomes are the two readings of the channel's answer. -/
theorem requestFrameEffect : Obligations.RequestFrameEffect := by
  intro s i f hframe hidle hacc
  rw [exec_requestFrame hframe hidle hacc]
  refine ⟨⟨_, rfl, ?_, ?_, ?_, ?_, ?_, ?_, ?_⟩, fun a as d hnext hw => ?_, fun a as d hnext hw => ?_⟩
  case refine_8 => rw [State.sendTx_of_takenAsWritten hnext hw]
  case refine_9 =>
    rw [State.sendTx_of_takenAsError hnext hw]
    refine ⟨_, rfl, fun k hk => ?_, fun k hk => ?_, ?_⟩
    · exact s.read_rxBuf_raiseError_of_lt .channelIo hk
    · exact s.read_rxBuf_raiseError_of_le .channelIo hk
    · rw [← hidle]
      rfl
  all_goals simp

/-- Settles O33: `RESP` is one fill of `RXBUF` and the registers `decode` gives. -/
theorem responseEffect : Obligations.ResponseEffect := by
  intro s bs fc hlen hawait hfc
  refine ⟨_, exec_eq_next_iff.2 (.resp hawait (State.requestFc_ok.2 hfc)), fun a ha => ?_, fun a ha => ?_, ?_, ?_⟩ <;>
    rw [readCut_of_le hlen]
  · exact Memory.read_fill _ _ _ hlen a ha
  · exact Memory.read_fill_ge _ _ _ hlen a ha
  · exact toNat_ofNat_length hlen
  · rfl

end Sys2Proof.Machine
end

section
/-! What a step can do (43_session section 1): who moves next, the step of each mover, and `step_cases`, from which the
statements about every step are read off. -/

namespace Sys2Proof.Machine

/-- The host may issue its next command `c`: idle and in no `SEND`, or in `AWAIT` without waiting (log 3). -/
def State.MayIssue (s : State) (c : Command) : Prop :=
  s.sess = .idle ∧ s.sendAccepted = false ∨ s.sess = .await ∧ c.early = true

/-- The host waits for its `SEND` to return (70_reset_and_hazards R220, log 3). -/
def State.HostWaits (s : State) : Prop := ∀ c cs, s.commands = c :: cs → c.early = false

theorem State.popCommand_of_cons {s : State} {c : Command} {cs : List Command} (h : s.commands = c :: cs) :
    s.popCommand = { s with commands := cs } := by
  rw [State.popCommand, h, List.tail_cons]

/-! Who moves next -/

theorem State.turn_command {s : State} {c : Command} {cs : List Command} (h : s.commands = c :: cs)
    (hmay : s.MayIssue c) : s.turn = .command c := by
  rcases hmay with ⟨hidle, hacc⟩ | ⟨hawait, hearly⟩
  · simp [State.turn, hidle, hacc, h]
  · simp [State.turn, hawait, hearly, h]

theorem State.turn_sendTx {s : State} (hidle : s.sess = .idle) (hacc : s.sendAccepted = true) : s.turn = .sendTx := by
  simp [State.turn, hidle, hacc]

theorem State.turn_sendRx {s : State} (hawait : s.sess = .await) (hwait : s.HostWaits) : s.turn = .sendRx := by
  cases h : s.commands with
  | nil => simp [State.turn, hawait, h]
  | cons c cs => simp [State.turn, hawait, h, hwait c cs h]

theorem State.turn_rest {s : State} (hidle : s.sess = .idle) (hacc : s.sendAccepted = false) (h : s.commands = []) :
    s.turn = .rest := by
  simp [State.turn, hidle, hacc, h]

/-- One of the four moves next. -/
theorem State.mover_cases (s : State) :
    (s.sess = .idle ∧ s.sendAccepted = false ∧ s.commands = []) ∨
    (∃ c cs, s.commands = c :: cs ∧ s.MayIssue c) ∨
    (s.sess = .idle ∧ s.sendAccepted = true) ∨
    (s.sess = .await ∧ s.HostWaits) := by
  cases hsess : s.sess with
  | idle =>
    cases hacc : s.sendAccepted with
    | true => exact .inr (.inr (.inl ⟨rfl, rfl⟩))
    | false =>
      cases h : s.commands with
      | nil => exact .inl ⟨rfl, rfl, rfl⟩
      | cons c cs => exact .inr (.inl ⟨c, cs, rfl, .inl ⟨hsess, hacc⟩⟩)
  | await =>
    cases h : s.commands with
    | nil => exact .inr (.inr (.inr ⟨rfl, by simp [State.HostWaits, h]⟩))
    | cons c cs =>
      cases hearly : c.early with
      | true => exact .inr (.inl ⟨c, cs, rfl, .inr ⟨hsess, hearly⟩⟩)
      | false => exact .inr (.inr (.inr ⟨rfl, by simp [State.HostWaits, h, hearly]⟩))

/-! The step of each mover -/

theorem step_of_rest {s : State} (hidle : s.sess = .idle) (hacc : s.sendAccepted = false) (h : s.commands = []) :
    step s = .next s := by
  rw [step, State.fetch, State.turn_rest hidle hacc h]

theorem step_of_command {s : State} {c : Command} {cs : List Command} {i : Instr} (h : s.commands = c :: cs)
    (hmay : s.MayIssue c) (hdecode : decodeCommand c.cw c.raw = .ok i) :
    step s = exec i { s with commands := cs } := by
  rw [step, State.fetch, State.turn_command h hmay]
  simp only [State.fetchCommand, hdecode]
  rw [State.popCommand_of_cons h]

theorem step_of_declined {s : State} {c : Command} {cs : List Command} {r : RefuseReason} (h : s.commands = c :: cs)
    (hmay : s.MayIssue c) (hdecode : decodeCommand c.cw c.raw = .error r) :
    step s = .next (State.refuse { s with commands := cs } r) := by
  rw [step, State.fetch, State.turn_command h hmay]
  simp only [State.fetchCommand, hdecode]
  rw [State.popCommand_of_cons h]

/-- With an accepted `SEND` the frame goes out, whether or not its bytes decode as a request (43_session R162, log 17). -/
theorem step_of_frame {s : State} {f : List Byte} (hidle : s.sess = .idle) (hacc : s.sendAccepted = true)
    (hframe : s.frame = .ok f) : step s = .next (s.sendTx f) := by
  rw [step, State.fetch, State.turn_sendTx hidle hacc]
  simp only [State.fetchRequest, hframe]
  cases hdecode : decodeRequest f with
  | ok i => exact (exec_of_decodeRequest hdecode s).trans (emitRequest_of_enabled f hidle hacc)
  | error e => rfl

theorem step_of_readError {s : State} (hawait : s.sess = .await) (hwait : s.HostWaits)
    (hanswer : s.readAnswer = .ioerror) : step s = .next s.popRead.sendRxError := by
  rw [step, State.fetch, State.turn_sendRx hawait hwait]
  simp only [State.fetchResponse, hanswer]

theorem step_of_response {s : State} {r : List Byte} (hawait : s.sess = .await) (hwait : s.HostWaits)
    (hanswer : s.readAnswer = .bytes r) : step s = exec (.resp r) s.popRead := by
  rw [step, State.fetch, State.turn_sendRx hawait hwait]
  simp only [State.fetchResponse, hanswer]

/-- The read answered bytes and the request's function code is known: the step `SEND.RX` (43_session R163). -/
theorem step_of_response_ok {s : State} {r : List Byte} {fc : Option Byte} (hawait : s.sess = .await) (hwait : s.HostWaits)
    (hanswer : s.readAnswer = .bytes r) (hfc : s.requestFc = .ok fc) : step s = .next (s.popRead.sendRx r fc) := by
  have hpop : s.popRead.requestFc = .ok fc := (State.requestFc_congr rfl rfl).trans hfc
  rw [step_of_response hawait hwait hanswer, exec_resp_eq_next_iff]
  exact ⟨hawait, fc, hpop, by rw [readCut_of_le (State.readAnswer_le hanswer)]⟩

/-- Everything a step that completes can have done. -/
theorem step_cases {s t : State} (h : step s = .next t) :
    t = s ∨
    (∃ cs r, t = State.refuse { s with commands := cs } r) ∨
    (∃ (c : Command) (cs : List Command) (i : Instr), decodeCommand c.cw c.raw = .ok i ∧ Completes { s with commands := cs } i t) ∨
    (∃ f, s.sess = .idle ∧ s.sendAccepted = true ∧ s.frame = .ok f ∧ t = s.sendTx f) ∨
    (s.sess = .await ∧ t = s.popRead.sendRxError) ∨
    ∃ r fc, s.sess = .await ∧ r.length ≤ 8 ∧ s.requestFc = .ok fc ∧ t = s.popRead.sendRx r fc := by
  rcases s.mover_cases with ⟨hidle, hacc, hnone⟩ | ⟨c, cs, hcmd, hmay⟩ | ⟨hidle, hacc⟩ | ⟨hawait, hwait⟩
  · rw [step_of_rest hidle hacc hnone] at h
    cases h
    exact .inl rfl
  · cases hdecode : decodeCommand c.cw c.raw with
    | error r =>
      rw [step_of_declined hcmd hmay hdecode] at h
      cases h
      exact .inr (.inl ⟨cs, r, rfl⟩)
    | ok i =>
      rw [step_of_command hcmd hmay hdecode] at h
      exact .inr (.inr (.inl ⟨c, cs, i, hdecode, exec_eq_next_iff.1 h⟩))
  · cases hframe : s.frame with
    | ok f =>
      rw [step_of_frame hidle hacc hframe] at h
      cases h
      exact .inr (.inr (.inr (.inl ⟨f, hidle, hacc, rfl, rfl⟩)))
    | error e =>
      rw [step, State.fetch, State.turn_sendTx hidle hacc] at h
      simp [State.fetchRequest, hframe] at h
  · cases hanswer : s.readAnswer with
    | ioerror =>
      rw [step_of_readError hawait hwait hanswer] at h
      cases h
      exact .inr (.inr (.inr (.inr (.inl ⟨hawait, rfl⟩))))
    | bytes r =>
      rw [step_of_response hawait hwait hanswer] at h
      obtain ⟨-, fc, hfc, rfl⟩ := exec_resp_eq_next_iff.1 h
      have hlen := State.readAnswer_le hanswer
      refine .inr (.inr (.inr (.inr (.inr ⟨r, fc, hawait, hlen, ?_, by rw [readCut_of_le hlen]⟩))))
      exact (State.requestFc_congr rfl rfl).trans hfc

/-! The fetch of an instruction -/

/-- Settles O6: the host moves next, and its word decodes. -/
theorem stepRunsHostCommand : Obligations.StepRunsHostCommand := fun _ _ _ _ h hmay hdecode =>
  step_of_command h hmay hdecode

/-- Settles O7: the block moves next, and both sides are the one write of the frame. -/
theorem stepRunsRequestFrame : Obligations.StepRunsRequestFrame := by
  intro s f i hidle hacc hframe hdecode
  rw [step_of_frame hidle hacc hframe, exec_of_decodeRequest hdecode, emitRequest_of_enabled f hidle hacc]

/-- Settles O8: the block moves next, and the answer, placed or free, is cut to 8 bytes. -/
theorem stepRunsResponse : Obligations.StepRunsResponse := by
  intro s r as d hawait hwait hnext
  obtain ⟨hanswer, hpop⟩ := hnext.eq
  rw [← hpop]
  exact step_of_response hawait hwait hanswer

/-! A placed word -/

theorem step_placeCommand {s : State} {cw raw : Word64} {i : Instr} (h : decodeCommand cw raw = .ok i) :
    step (s.placeCommand cw raw) = exec i (s.placeCommand cw raw).popCommand := by
  refine step_of_command (c := ⟨cw, raw, true⟩) rfl ?_ h
  cases hsess : s.sess with
  | idle => exact .inl ⟨hsess, rfl⟩
  | await => exact .inr ⟨hsess, rfl⟩

theorem step_placeRequest {s : State} {f : List Byte} {i : Instr} (h : decodeRequest f = .ok i) :
    step (s.placeRequest f) = exec i (s.placeRequest f) := by
  have hlen : f.length ≤ 10 := by
    rcases decodeRequest_ok h with ⟨_, _, _, _, _, _, -, rfl⟩ | ⟨_, _, _, _, _, _, -, rfl⟩ <;>
      simp [request16_eq, request32_eq]
  have hframe : (s.placeRequest f).frame = .ok f :=
    (State.frame_congr (s := s.placeRequest f) (t := s.putFrame f) rfl rfl).trans (s.frame_putFrame f hlen)
  exact stepRunsRequestFrame _ f i rfl rfl hframe h

theorem step_placeResponse {s : State} {bs : List Byte} (hlen : bs.length ≤ 8) :
    step (s.placeResponse bs) = exec (.resp bs) (s.placeResponse bs).popRead := by
  have hwait : (s.placeResponse bs).HostWaits := by
    intro c cs h
    obtain ⟨b, -, rfl⟩ := List.mem_map.1 (h ▸ List.mem_cons_self : c ∈ (s.placeResponse bs).commands)
    rfl
  have hanswer : (s.placeResponse bs).readAnswer = .bytes bs := congrArg ReadAnswer.bytes (readCut_of_le hlen)
  exact step_of_response rfl hwait hanswer

theorem toOption_eq_some {ε α : Type} {x : Except ε α} {a : α} (h : x.toOption = some a) : x = .ok a := by
  cases x with
  | ok b => simpa [Except.toOption] using h
  | error e => simp [Except.toOption] at h

/-- What a table word stands for has been decoded at one of the three ports (log 12). -/
theorem decodeTableWord_ok {nbits w : Nat} {i : Instr} (h : decodeTableWord nbits w = some i) :
    (∃ cw raw, decodeCommand cw raw = .ok i) ∨ (∃ f, decodeRequest f = .ok i) ∨ ∃ bs, decodeResponse bs = .ok i := by
  unfold decodeTableWord at h
  split at h
  · exact .inr (.inl ⟨_, toOption_eq_some h⟩)
  · split at h
    · split at h
      · rename_i hcommand
        cases h
        exact .inl ⟨_, _, hcommand⟩
      · split at h
        · rename_i hrequest
          cases h
          exact .inr (.inl ⟨_, hrequest⟩)
        · exact .inr (.inr ⟨_, toOption_eq_some h⟩)
      · cases h
    · split at h
      · exact .inr (.inr ⟨_, toOption_eq_some h⟩)
      · cases h

theorem decodeResponse_ok {bs : List Byte} {i : Instr} (h : decodeResponse bs = .ok i) : i = .resp bs ∧ bs.length ≤ 8 := by
  unfold decodeResponse at h
  split at h
  · rename_i hlen
    cases h
    exact ⟨rfl, hlen⟩
  · cases h

/-- A table word that stands for an instruction of the host or the response port stands for a well-formed one. -/
theorem wellFormed_of_decodeTableWord {nbits w : Nat} {i : Instr} (h : decodeTableWord nbits w = some i)
    (hport : ∀ f, encode i ≠ .request f) : i.WellFormed := by
  rcases decodeTableWord_ok h with ⟨cw, raw, hcommand⟩ | ⟨f, hrequest⟩ | ⟨bs, hresponse⟩
  · exact wellFormed_of_decodeCommand hcommand
  · rcases decodeRequest_ok hrequest with ⟨_, _, _, _, _, _, rfl, -⟩ | ⟨_, _, _, _, _, _, rfl, -⟩ <;>
      exact absurd rfl (hport _)
  · obtain ⟨rfl, hlen⟩ := decodeResponse_ok hresponse
    exact wellFormed_resp.2 hlen

/-- Settles O9: the word is placed as the encoding of its instruction, and each port's fetch decodes that encoding. -/
theorem placedWordRuns : Obligations.PlacedWordRuns := by
  intro s nbits w i h
  have hplace : s.withFetchWord nbits w = s.place i := by
    rw [State.withFetchWord, State.placeWord, h]
  rw [hplace, State.place]
  cases hencode : encode i with
  | command cw raw =>
    exact step_placeCommand (decodeCommand_of_encode (wellFormed_of_decodeTableWord h (by simp [hencode])) hencode)
  | request f => exact step_placeRequest (decodeRequest_of_encode hencode)
  | response bs =>
    have hwf := wellFormed_of_decodeTableWord h (by simp [hencode])
    obtain rfl := eq_resp_of_encode hencode
    exact step_placeResponse (wellFormed_resp.1 hwf)

end Sys2Proof.Machine
end

section
/-! The steps of the block from states that meet the invariants (43_session sections 1 and 2), and what every step keeps. -/

namespace Sys2Proof.Machine

/-! What the invariants give to the steps -/

/-- A frame's function code holds a value (10_state R41 (b)). -/
theorem State.InvR41.isSome_read_one {s : State} (h : s.InvR41) (hframe : s.txLen ≠ 0) :
    (s.txBuf.read 1).isSome = true := by
  rcases h.txLen with hlen | hlen | hlen
  · exact absurd (BitVec.eq_of_toNat_eq hlen) hframe
  · rw [h.txFc16 hlen, Option.isSome_some]
  · rw [h.txFc32 hlen, Option.isSome_some]

theorem State.InvR41.requestFc_of_frame {s : State} (h : s.InvR41) (hframe : s.txLen ≠ 0) :
    s.requestFc = .ok (s.txBuf.read 1) :=
  State.requestFc_ok.2 (.inr ⟨hframe, h.isSome_read_one hframe, rfl⟩)

theorem State.InvR41.exists_requestFc {s : State} (h : s.InvR41) : ∃ fc, s.requestFc = .ok fc := by
  by_cases hframe : s.txLen = 0
  · exact ⟨none, State.requestFc_ok.2 (.inl ⟨hframe, rfl⟩)⟩
  · exact ⟨_, h.requestFc_of_frame hframe⟩

theorem State.Inv.exists_frame {s : State} (h : s.Inv) : ∃ f, s.frame = .ok f :=
  State.readBytes_of_holds (sp := .tx) h.txHolds (by omega)

/-! `SEND.TX` and `SEND.RX` -/

/-- Settles O34: the frame that the invariants keep in `TXBUF` is read back and handed over in one `SEND.TX`. -/
theorem sendTxStep : Obligations.SendTxStep := by
  intro s hinv hacc
  obtain ⟨hidle, -⟩ := hinv.accepted hacc
  obtain ⟨f, hframe⟩ := hinv.exists_frame
  obtain ⟨hlen, hread⟩ := State.readBytes_ok.1 hframe
  rw [step_of_frame hidle hacc hframe]
  refine ⟨f, hframe, hlen, fun a ha => ?_, fun a as d hnext hw => ?_, fun a as d hnext hw => ?_⟩
  · obtain ⟨-, hbyte⟩ := hread a ha
    simpa using hbyte.symm
  · rw [State.sendTx_of_takenAsWritten hnext hw]
  · rw [State.sendTx_of_takenAsError hnext hw]

/-- In `AWAIT` with the host waiting, the step `SEND.RX` by the channel's answer (43_session R163). -/
theorem step_of_nextRead {s : State} {a : ReadAnswer} {as : List ReadAnswer} {d : Nat} (hinv : s.InvR41)
    (hawait : s.sess = .await) (hwait : s.HostWaits) (hnext : s.NextRead a as d) :
    step s = .next (match a with
      | .ioerror => State.sendRxError { s with readAnswers := as, draws := d }
      | .bytes r => State.sendRx { s with readAnswers := as, draws := d } (r.take 8) (s.txBuf.read 1)) := by
  obtain ⟨hanswer, hpop⟩ := hnext.eq
  cases a with
  | ioerror => rw [step_of_readError hawait hwait hanswer, hpop]
  | bytes r => rw [step_of_response_ok hawait hwait hanswer (hinv.requestFc_of_frame (hinv.await hawait)), hpop]; rfl

/-- The channel always has a next answer to a read, placed or free (log 6, 13). -/
theorem State.exists_nextRead (s : State) : ∃ a as d, s.NextRead a as d := by
  cases h : s.readAnswers with
  | nil => exact ⟨_, _, _, .inr ⟨h, rfl, rfl, rfl⟩⟩
  | cons a as => exact ⟨a, as, _, .inl ⟨h, rfl⟩⟩

/-- Settles O36: the channel has an answer, and both outcomes of `SEND.RX` end in `IDLE`. -/
theorem exchangeTerminates : Obligations.ExchangeTerminates := by
  intro s hinv hawait hwait
  obtain ⟨a, as, d, hnext⟩ := s.exists_nextRead
  refine ⟨_, step_of_nextRead hinv.toInvR41 hawait hwait hnext, ?_⟩
  cases a <;> rfl

/-- A read that gives no bytes makes the writes of `raise NoResponse()` (43_session R163). -/
theorem State.sendRx_nil (s : State) (fc : Option Byte) :
    s.sendRx [] fc = { s.raiseError .noResponse with
      sess := .idle, wire := s.wire ++ [.read (.bytes [])],
      results := s.results ++ [.okExchange false [] .noResponse] } := by
  rw [State.sendRx, State.putResponse_decodeExchange_nil]
  rfl

/-- Settles O35: the three answers of the channel; no bytes are the response that `decode` turns into `NoResponse`. -/
theorem sendRxStep : Obligations.SendRxStep := by
  intro s hinv hawait hwait
  refine ⟨fun as d hnext => step_of_nextRead hinv.toInvR41 hawait hwait hnext, fun r as d hnext => ?_, fun as d hnext => ?_,
    fun t ht => ?_⟩
  · have hlen : (r.take 8).length ≤ 8 := List.length_take_le 8 r
    refine ⟨_, step_of_nextRead hinv.toInvR41 hawait hwait hnext, fun a ha => ?_, ?_, rfl⟩
    · exact Memory.read_fill _ _ _ hlen a ha
    · exact toNat_ofNat_length hlen
  · exact (step_of_nextRead hinv.toInvR41 hawait hwait hnext).trans (congrArg Host.Outcome.next (State.sendRx_nil _ _))
  · obtain ⟨t', ht', hidle⟩ := exchangeTerminates s hinv hawait hwait
    rw [ht] at ht'
    cases ht'
    exact hidle

/-- Settles O42: a word that does not decode is refused by its name; one that does is refused by `exec`. -/
theorem refusalOrder : Obligations.RefusalOrder := by
  intro s c cs hcmd hmay
  refine ⟨fun r hdecode => step_of_declined hcmd hmay hdecode, fun i hdecode hreset hawait => ?_,
    fun hdecode hidle hframe => ?_⟩
  · obtain ⟨raw, hcommand⟩ := encode_of_decodeCommand hdecode
    rw [step_of_command hcmd hmay hdecode]
    exact exec_eq_next_iff.2 (.busy hawait hcommand hreset (wellFormed_of_decodeCommand hdecode))
  · rw [step_of_command hcmd hmay hdecode]
    exact exec_eq_next_iff.2 (.noFrame hidle hframe)

/-! What every step keeps -/

/-- No host command touches the channel (70_reset_and_hazards R211). -/
theorem Completes.wire_of_command {i : Instr} {s t : State} {cw raw : Word64} (h : Completes s i t)
    (hcommand : encode i = .command cw raw) : t.wire = s.wire := by
  cases h with
  | busy | badLen | noFrame | crcInit | crcUpdate | crcRead | enc | send | dec | reset => rfl
  | wr16 | wr32 | resp => cases hcommand

/-- Settles O39: only `SEND.TX` and `SEND.RX` log an event, each one. -/
theorem oneWireEventPerStep : Obligations.OneWireEventPerStep := by
  intro s t h
  rcases step_cases h with rfl | ⟨cs, r, rfl⟩ | ⟨c, cs, i, hdecode, hi⟩ | ⟨f, hidle, hacc, hframe, rfl⟩ | ⟨hawait, rfl⟩ |
    ⟨r, fc, hawait, hlen, -, rfl⟩
  · exact .inl rfl
  · exact .inl rfl
  · obtain ⟨raw, hcommand⟩ := encode_of_decodeCommand hdecode
    exact .inl (hi.wire_of_command hcommand)
  · exact .inr (.inl ⟨f, State.sendTx_wire s f, hidle, hacc, hframe, State.sendTx_sendAccepted s f⟩)
  · exact .inr (.inr ⟨.ioerror, rfl, hawait, rfl, fun r hr => by cases hr⟩)
  · exact .inr (.inr ⟨.bytes r, rfl, hawait, rfl, fun r' hr => by cases hr; exact hlen⟩)

theorem Completes.shortWritePolicy {i : Instr} {s t : State} (h : Completes s i t) :
    t.shortWritePolicy = s.shortWritePolicy := by
  cases h with
  | wr16 | wr32 => exact State.sendTx_shortWritePolicy s _
  | busy | badLen | noFrame | crcInit | crcUpdate | crcRead | enc | send | dec | reset | resp => rfl

/-- Settles O45: no operation writes the parameter. -/
theorem parameterFixed : Obligations.ParameterFixed := by
  refine ⟨rfl, fun s t h => ?_⟩
  rcases step_cases h with rfl | ⟨cs, r, rfl⟩ | ⟨c, cs, i, -, hi⟩ | ⟨f, -, -, -, rfl⟩ | ⟨-, rfl⟩ | ⟨r, fc, -, -, -, rfl⟩
  case inr.inr.inl => exact hi.shortWritePolicy
  case inr.inr.inr.inl => exact State.sendTx_shortWritePolicy s f
  all_goals rfl

/-- Settles O53: no host command stops, and the invariants give `SEND.TX` its frame and `SEND.RX` its function code. -/
theorem stepCompletes : Obligations.StepCompletes := by
  intro s hinv
  rcases s.mover_cases with ⟨hidle, hacc, hnone⟩ | ⟨c, cs, hcmd, hmay⟩ | ⟨hidle, hacc⟩ | ⟨hawait, hwait⟩
  · exact ⟨s, step_of_rest hidle hacc hnone⟩
  · cases hdecode : decodeCommand c.cw c.raw with
    | error r => exact ⟨_, step_of_declined hcmd hmay hdecode⟩
    | ok i =>
      rw [step_of_command hcmd hmay hdecode]
      obtain ⟨raw, hcommand⟩ := encode_of_decodeCommand hdecode
      rcases exec_cases i { s with commands := cs } with hnext | ⟨f, -, hfc, -⟩ | ⟨-, -, hi⟩ | ⟨-, -, hi⟩
      · exact hnext
      · obtain ⟨fc, hok⟩ := hinv.exists_requestFc
        have hfc : s.requestFc = .error f := (State.requestFc_congr rfl rfl).trans hfc
        simp [hok] at hfc
      · rcases hi with ⟨_, _, _, _, _, _, rfl⟩ | ⟨_, _, _, _, _, _, rfl⟩ <;> cases hcommand
      · obtain ⟨_, rfl⟩ := hi
        cases hcommand
  · obtain ⟨f, hframe⟩ := hinv.exists_frame
    exact ⟨_, step_of_frame hidle hacc hframe⟩
  · obtain ⟨t, ht, -⟩ := exchangeTerminates s hinv hawait hwait
    exact ⟨t, ht⟩

end Sys2Proof.Machine
end

section
/-! The invariants (10_state section 10): what a step can write into the transmit registers, the receive registers and the
session, and that each of these writes keeps its part of the invariants. -/

namespace Sys2Proof.Machine

/-! The receive registers -/

/-- The registers of the response (10_state R24, R30, R31, R33). -/
structure RxRegs where
  rxBuf : Memory
  rxLen : BitVec 4
  success : Bool
  errKind : ErrKind
  vLen : Bool
  vCrc : Bool
  vFc : Bool
  valid : Bool

def State.rxRegs (s : State) : RxRegs :=
  ⟨s.rxBuf, s.rxLen, s.success, s.errKind, s.vLen, s.vCrc, s.vFc, s.valid⟩

/-- The invariants of 10_state R41 that speak of the response: (d) to (g). -/
structure RxRegs.Inv (r : RxRegs) : Prop where
  wf : r.rxBuf.wf Config.rxMax
  rxLen : r.rxLen.toNat ≤ Config.rxMax
  success : r.success = true → 0 < r.rxLen.toNat ∧ r.errKind = .noError
  errKind : r.errKind ≠ .noError → r.success = false ∧ r.rxLen.toNat = 0
  valid : r.valid = (r.vLen && r.vCrc && r.vFc)
  vCrc : r.vCrc = true → r.vLen = true
  flags : r.vLen = true ∨ r.vCrc = true ∨ r.vFc = true ∨ r.valid = true → r.success = true

/-- What `State.Inv` says of the response beyond 10_state R41 (10_state R24, R30). -/
structure RxRegs.Exact (r : RxRegs) : Prop where
  holds : r.rxBuf.Holds Config.rxMax r.rxLen.toNat
  nonEmpty : 0 < r.rxLen.toNat → r.success = true

/-- The four things a step can leave in the receive registers: what was there, what `decode` says of a response, the writes
of `raise`, the reset values. -/
inductive RxStep (s t : State) : Prop where
  | same (h : t.rxRegs = s.rxRegs)
  | response {bs : List Byte} {fc : Option Byte} (hlen : bs.length ≤ 8)
      (h : t.rxRegs = (s.putResponse (decodeExchange bs fc)).rxRegs)
  | raise {k : ErrKind} (h : t.rxRegs = (s.raiseError k).rxRegs)
  | reset (h : t.rxRegs = State.reset.rxRegs)

theorem vLenOf_of_vCrcOf {raw : List Byte} (h : vCrcOf raw = true) : vLenOf raw = true :=
  vLenOf_eq_true.2 (vCrcOf_eq_true_iff_residue.1 h).1

/-- A flag is set only by a response that is not empty (10_state R41 (g)). -/
theorem successOf_of_flag {raw : List Byte} {fc : Option Byte}
    (h : vLenOf raw = true ∨ vCrcOf raw = true ∨ vFcOf raw fc = true ∨ (vLenOf raw && vCrcOf raw && vFcOf raw fc) = true) :
    successOf raw = true := by
  have hlen : vLenOf raw = true → successOf raw = true := by
    rw [vLenOf_eq_true, successOf_eq_true]
    omega
  rcases h with h | h | h | h
  · exact hlen h
  · exact hlen (vLenOf_of_vCrcOf h)
  · obtain ⟨b, -, hb⟩ := vFcOf_eq_true.1 h
    obtain ⟨hlt, -⟩ := List.getElem?_eq_some_iff.1 hb
    exact successOf_eq_true.2 (by omega)
  · rw [Bool.and_eq_true, Bool.and_eq_true] at h
    exact hlen h.1.1

theorem RxRegs.inv_putResponse {s : State} {bs : List Byte} (fc : Option Byte) (hwf : s.rxBuf.wf Config.rxMax)
    (hlen : bs.length ≤ 8) : (s.putResponse (decodeExchange bs fc)).rxRegs.Inv := by
  have hrx : (s.putResponse (decodeExchange bs fc)).rxLen.toNat = bs.length := toNat_ofNat_length hlen
  constructor
  case wf => exact Memory.wf_fill hwf hlen
  case rxLen => exact hrx.trans_le hlen
  case success =>
    intro hsuccess
    have hpos := successOf_eq_true.1 hsuccess
    exact ⟨hrx.symm ▸ hpos, if_pos hpos⟩
  case errKind =>
    intro herr
    have hpos : ¬ 0 < bs.length := fun hpos => herr (if_pos hpos)
    exact ⟨decide_eq_false hpos, hrx.trans (by omega)⟩
  case valid => rfl
  case vCrc => exact vLenOf_of_vCrcOf
  case flags => exact successOf_of_flag

theorem RxRegs.exact_putResponse {s : State} {bs : List Byte} (fc : Option Byte) (hwf : s.rxBuf.wf Config.rxMax)
    (hlen : bs.length ≤ 8) : (s.putResponse (decodeExchange bs fc)).rxRegs.Exact := by
  have hrx : (s.putResponse (decodeExchange bs fc)).rxLen.toNat = bs.length := toNat_ofNat_length hlen
  exact ⟨hrx.symm ▸ Memory.holds_fill hwf hlen, fun hpos => successOf_eq_true.2 (hrx ▸ hpos)⟩

theorem RxRegs.inv_raiseError {s : State} (k : ErrKind) (hwf : s.rxBuf.wf Config.rxMax) : (s.raiseError k).rxRegs.Inv where
  wf := Memory.wf_fill hwf (Nat.zero_le _)
  rxLen := Nat.zero_le _
  success h := by cases h
  errKind _ := ⟨rfl, rfl⟩
  valid := rfl
  vCrc h := by cases h
  flags h := by simp [State.rxRegs] at h

theorem RxRegs.exact_raiseError {s : State} (k : ErrKind) (hwf : s.rxBuf.wf Config.rxMax) :
    (s.raiseError k).rxRegs.Exact where
  holds := Memory.holds_fill hwf (Nat.zero_le _)
  nonEmpty h := by cases h

theorem RxRegs.inv_reset : State.reset.rxRegs.Inv where
  wf := State.reset_wf.2
  rxLen := by decide
  success h := by cases h
  errKind h := absurd rfl h
  valid := rfl
  vCrc h := by cases h
  flags h := by simp [State.rxRegs, State.reset] at h

theorem RxRegs.exact_reset : State.reset.rxRegs.Exact where
  holds := Memory.holds_nil _
  nonEmpty h := by cases h

theorem RxStep.inv {s t : State} (h : RxStep s t) (hs : s.rxRegs.Inv) : t.rxRegs.Inv := by
  cases h with
  | same h => exact h ▸ hs
  | response hlen h => exact h ▸ RxRegs.inv_putResponse _ hs.wf hlen
  | raise h => exact h ▸ RxRegs.inv_raiseError _ hs.wf
  | reset h => exact h ▸ RxRegs.inv_reset

theorem RxStep.exact {s t : State} (h : RxStep s t) (hwf : s.rxBuf.wf Config.rxMax) (hs : s.rxRegs.Exact) :
    t.rxRegs.Exact := by
  cases h with
  | same h => exact h ▸ hs
  | response hlen h => exact h ▸ RxRegs.exact_putResponse _ hwf hlen
  | raise h => exact h ▸ RxRegs.exact_raiseError _ hwf
  | reset h => exact h ▸ RxRegs.exact_reset

theorem RxStep.of_sendTx (s : State) (f : List Byte) : RxStep s (s.sendTx f) := by
  rcases s.sendTx_cases f with ⟨-, h⟩ | ⟨-, h⟩ <;> rw [h]
  · exact .same rfl
  · exact .raise (k := .channelIo) rfl

theorem Completes.rxStep {i : Instr} {s t : State} (h : Completes s i t) : RxStep s t := by
  cases h with
  | busy | badLen | noFrame | crcInit | crcUpdate | crcRead | enc | send => exact .same rfl
  | dec hidle hlen hfc => exact .response hlen rfl
  | reset => exact .reset rfl
  | wr16 | wr32 => exact .of_sendTx s _
  | resp => exact .response (readCut_length_le _) rfl

theorem rxStep_of_step {s t : State} (h : step s = .next t) : RxStep s t := by
  rcases step_cases h with rfl | ⟨cs, r, rfl⟩ | ⟨c, cs, i, -, hi⟩ | ⟨f, -, -, -, rfl⟩ | ⟨-, rfl⟩ | ⟨r, fc, -, hlen, -, rfl⟩
  · exact .same rfl
  · exact .same rfl
  · cases hi.rxStep with
    | same h => exact .same h
    | response hlen h => exact .response hlen h
    | raise h => exact .raise h
    | reset h => exact .reset h
  · exact .of_sendTx s f
  · exact .raise (k := .channelIo) rfl
  · exact .response hlen rfl

/-! The transmit registers -/

/-- The invariants of 10_state R41 that speak of the frame: (a) to (c). -/
structure State.TxInv (s : State) : Prop where
  wf : s.txBuf.wf Config.txMax
  txLen : s.txLen.toNat = 0 ∨ s.txLen.toNat = frameLength .u16 ∨ s.txLen.toNat = frameLength .u32
  txFc16 : s.txLen.toNat = frameLength .u16 → s.txBuf.read 1 = some (functionCode .u16)
  txFc32 : s.txLen.toNat = frameLength .u32 → s.txBuf.read 1 = some (functionCode .u32)
  txCrc : s.txLen ≠ 0 → ∃ f, s.frame = .ok f ∧
    le16 (crc16 (f.take (f.length - 2))) = f.drop (f.length - 2) ∧ crc16 f = 0

/-- The three things a step can leave in the transmit registers: what was there, an encoded frame, the reset values. -/
inductive TxStep (s t : State) : Prop where
  | same (hbuf : t.txBuf = s.txBuf) (hlen : t.txLen = s.txLen)
  | frame {u a x : Byte} {d : DType} {v : ValueWord} (hbuf : t.txBuf = (s.putFrame (encodeFrame u a x d v)).txBuf)
      (hlen : t.txLen = (s.putFrame (encodeFrame u a x d v)).txLen)
  | reset (hbuf : t.txBuf = State.reset.txBuf) (hlen : t.txLen = State.reset.txLen)

theorem State.TxInv.congr {s t : State} (h : s.TxInv) (hbuf : t.txBuf = s.txBuf) (hlen : t.txLen = s.txLen) : t.TxInv where
  wf := hbuf ▸ h.wf
  txLen := hlen ▸ h.txLen
  txFc16 := by rw [hbuf, hlen]; exact h.txFc16
  txFc32 := by rw [hbuf, hlen]; exact h.txFc32
  txCrc := by rw [hlen, State.frame_congr hbuf hlen]; exact h.txCrc

theorem toNat_txLen_encodeFrame (s : State) (u a x : Byte) (d : DType) (v : ValueWord) :
    (s.putFrame (encodeFrame u a x d v)).txLen.toNat = frameLength d := by
  rw [State.toNat_txLen_putFrame s (length_encodeFrame_le u a x d v), length_encodeFrame]

theorem txLen_encodeFrame_ne_zero (s : State) (u a x : Byte) (d : DType) (v : ValueWord) :
    (s.putFrame (encodeFrame u a x d v)).txLen ≠ 0 := by
  intro hzero
  have hlen := toNat_txLen_encodeFrame s u a x d v
  rw [hzero] at hlen
  cases d <;> cases hlen

/-- An encoded frame ends in the CRC of what stands before it (10_state R41 (c)). -/
theorem crc_of_withCrc (body : List Byte) :
    le16 (crc16 ((withCrc body).take ((withCrc body).length - 2))) = (withCrc body).drop ((withCrc body).length - 2) ∧
      crc16 (withCrc body) = 0 := by
  have hlen : (withCrc body).length - 2 = body.length := by simp [withCrc, le16]
  constructor
  · rw [hlen, withCrc, List.take_left, List.drop_left]
  · rw [withCrc, le16, crc16_append_pair_eq_zero, ofLe16_lo8_hi8]

theorem State.txInv_putFrame {s : State} (u a x : Byte) (d : DType) (v : ValueWord) (hwf : s.txBuf.wf Config.txMax) :
    (s.putFrame (encodeFrame u a x d v)).TxInv := by
  have hlen := length_encodeFrame_le u a x d v
  have htx := toNat_txLen_encodeFrame s u a x d v
  have hfc : (s.putFrame (encodeFrame u a x d v)).txBuf.read 1 = some (functionCode d) :=
    Memory.read_fill _ _ _ hlen 1 (by decide)
  constructor
  case wf => exact Memory.wf_fill hwf hlen
  case txLen => rw [htx]; cases d <;> simp
  case txFc16 => rw [htx, hfc]; cases d <;> simp
  case txFc32 => rw [htx, hfc]; cases d <;> simp
  case txCrc => exact fun _ => ⟨_, s.frame_putFrame _ hlen, crc_of_withCrc _⟩

theorem State.txInv_reset : State.reset.TxInv where
  wf := State.reset_wf.1
  txLen := .inl rfl
  txFc16 h := by cases h
  txFc32 h := by cases h
  txCrc h := absurd rfl h

theorem TxStep.inv {s t : State} (h : TxStep s t) (hs : s.TxInv) : t.TxInv := by
  cases h with
  | same hbuf hlen => exact hs.congr hbuf hlen
  | frame hbuf hlen => exact (State.txInv_putFrame _ _ _ _ _ hs.wf).congr hbuf hlen
  | reset hbuf hlen => exact State.txInv_reset.congr hbuf hlen

theorem TxStep.holds {s t : State} (h : TxStep s t) (hs : s.txBuf.Holds Config.txMax s.txLen.toNat) :
    t.txBuf.Holds Config.txMax t.txLen.toNat := by
  cases h with
  | same hbuf hlen => rwa [hbuf, hlen]
  | @frame u a x d v hbuf hlen =>
    have hle := length_encodeFrame_le u a x d v
    rw [hbuf, hlen, State.toNat_txLen_putFrame s hle]
    exact Memory.holds_fill hs.wf hle
  | reset hbuf hlen =>
    rw [hbuf, hlen]
    exact Memory.holds_nil _

theorem Completes.txStep {i : Instr} {s t : State} (h : Completes s i t) : TxStep s t := by
  cases h with
  | busy | badLen | noFrame | crcInit | crcUpdate | crcRead | send | dec | resp => exact .same rfl rfl
  | enc => exact .frame rfl rfl
  | reset => exact .reset rfl rfl
  | wr16 | wr32 => exact .same (State.sendTx_txBuf s _) (State.sendTx_txLen s _)

theorem txStep_of_step {s t : State} (h : step s = .next t) : TxStep s t := by
  rcases step_cases h with rfl | ⟨cs, r, rfl⟩ | ⟨c, cs, i, -, hi⟩ | ⟨f, -, -, -, rfl⟩ | ⟨-, rfl⟩ | ⟨r, fc, -, -, -, rfl⟩
  case inr.inr.inl =>
    cases hi.txStep with
    | same hbuf hlen => exact .same hbuf hlen
    | frame hbuf hlen => exact .frame hbuf hlen
    | reset hbuf hlen => exact .reset hbuf hlen
  case inr.inr.inr.inl => exact .same (State.sendTx_txBuf s f) (State.sendTx_txLen s f)
  all_goals exact .same rfl rfl

/-! The session -/

/-- The rules on who waits for what: 10_state R41 (i), and log 2. -/
structure State.SessInv (s : State) : Prop where
  await : s.sess = .await → s.txLen ≠ 0
  accepted : s.AcceptedWithFrame

theorem State.SessInv.of_idle {s : State} (hidle : s.sess = .idle) (hacc : s.sendAccepted = true → s.txLen ≠ 0) :
    s.SessInv where
  await hawait := by simp [hidle] at hawait
  accepted h := ⟨hidle, hacc h⟩

theorem State.SessInv.congr {s t : State} (h : s.SessInv) (hsess : t.sess = s.sess) (hacc : t.sendAccepted = s.sendAccepted)
    (hlen : t.txLen = s.txLen) : t.SessInv where
  await := by rw [hsess, hlen]; exact h.await
  accepted := by rw [State.AcceptedWithFrame, hsess, hacc, hlen]; exact h.accepted

theorem State.SessInv.sendTx {s : State} (h : s.SessInv) (hacc : s.sendAccepted = true) (f : List Byte) :
    (s.sendTx f).SessInv where
  await _ := by rw [State.sendTx_txLen]; exact (h.accepted hacc).2
  accepted haccepted := by simp at haccepted

/-- No `SEND` is accepted while one is under way. -/
theorem State.SessInv.not_accepted_of_await {s : State} (h : s.SessInv) (hawait : s.sess = .await) :
    s.sendAccepted ≠ true := by
  intro hacc
  obtain ⟨hidle, -⟩ := h.accepted hacc
  rw [hawait] at hidle
  cases hidle

theorem Completes.sessInv {i : Instr} {s t : State} (h : Completes s i t) (hs : s.SessInv) : t.SessInv := by
  cases h with
  | busy | badLen | noFrame | crcInit | crcUpdate | crcRead | dec => exact hs.congr rfl rfl rfl
  | enc hidle => exact .of_idle hidle fun _ => txLen_encodeFrame_ne_zero s _ _ _ _ _
  | send hidle hframe => exact .of_idle hidle fun _ => hframe
  | reset => exact .of_idle rfl fun h => by cases h
  | wr16 hidle hacc | wr32 hidle hacc => exact hs.sendTx hacc _
  | resp hawait hfc => exact .of_idle rfl fun h => absurd h (hs.not_accepted_of_await hawait)

theorem sessInv_of_step {s t : State} (h : step s = .next t) (hs : s.SessInv) : t.SessInv := by
  rcases step_cases h with rfl | ⟨cs, r, rfl⟩ | ⟨c, cs, i, -, hi⟩ | ⟨f, -, hacc, -, rfl⟩ | ⟨hawait, rfl⟩ |
    ⟨r, fc, hawait, -, -, rfl⟩
  · exact hs
  · exact hs.congr rfl rfl rfl
  · exact hi.sessInv (hs.congr rfl rfl rfl)
  · exact hs.sendTx hacc f
  · exact .of_idle rfl fun h => absurd h (hs.not_accepted_of_await hawait)
  · exact .of_idle rfl fun h => absurd h (hs.not_accepted_of_await hawait)

/-! All of them -/

/-- The invariants of 10_state R41 with log 2's rule, by the registers they speak of. -/
theorem State.invR41_and_accepted_iff {s : State} :
    s.InvR41 ∧ s.AcceptedWithFrame ↔ s.TxInv ∧ s.rxRegs.Inv ∧ s.SessInv := by
  constructor
  · rintro ⟨h, hacc⟩
    exact ⟨⟨h.txWf, h.txLen, h.txFc16, h.txFc32, h.txCrc⟩,
      ⟨h.rxWf, h.rxLen, h.success, h.errKind, h.valid, h.vCrc, h.flags⟩, ⟨h.await, hacc⟩⟩
  · rintro ⟨htx, hrx, hsess⟩
    exact ⟨⟨htx.wf, hrx.wf, htx.txLen, htx.txFc16, htx.txFc32, htx.txCrc, hrx.rxLen, hrx.success, hrx.errKind, hrx.valid,
      hrx.vCrc, hrx.flags, hsess.await⟩, hsess.accepted⟩

/-- An instruction keeps the invariants of 10_state R41 and log 2's rule. -/
theorem Completes.keeps_invR41 {i : Instr} {s t : State} (h : Completes s i t) (hinv : s.InvR41)
    (hacc : s.AcceptedWithFrame) : t.InvR41 ∧ t.AcceptedWithFrame := by
  obtain ⟨htx, hrx, hsess⟩ := State.invR41_and_accepted_iff.1 ⟨hinv, hacc⟩
  exact State.invR41_and_accepted_iff.2 ⟨h.txStep.inv htx, h.rxStep.inv hrx, h.sessInv hsess⟩

/-- Settles O52: each part of the invariants is kept by what a step can write into its registers. -/
theorem stepKeepsInvR41 : Obligations.StepKeepsInvR41 := by
  intro s t hinv hacc h
  obtain ⟨htx, hrx, hsess⟩ := State.invR41_and_accepted_iff.1 ⟨hinv, hacc⟩
  exact State.invR41_and_accepted_iff.2
    ⟨(txStep_of_step h).inv htx, (rxStep_of_step h).inv hrx, sessInv_of_step h hsess⟩

/-- Settles O51: beyond R41, every write leaves exactly the bytes below the length in its buffer. -/
theorem stepKeepsInvariants : Obligations.StepKeepsInvariants := by
  intro s t hinv h
  obtain ⟨hR41, haccepted⟩ := stepKeepsInvR41 s t hinv.toInvR41 hinv.accepted h
  have hrx : t.rxRegs.Exact := (rxStep_of_step h).exact hinv.rxWf ⟨hinv.rxHolds, hinv.nonEmpty⟩
  exact ⟨hR41, (txStep_of_step h).holds hinv.txHolds, hrx.holds, hrx.nonEmpty, haccepted⟩

/-- Settles O50: after reset both buffers are empty and every flag is clear. -/
theorem resetMeetsInvariants : Obligations.ResetMeetsInvariants := by
  have hsess : State.reset.SessInv := .of_idle rfl fun h => by cases h
  obtain ⟨hR41, haccepted⟩ := State.invR41_and_accepted_iff.2 ⟨State.txInv_reset, RxRegs.inv_reset, hsess⟩
  exact ⟨⟨hR41, Memory.holds_nil _, RxRegs.exact_reset.holds, RxRegs.exact_reset.nonEmpty, haccepted⟩, ⟨rfl, rfl, hR41⟩,
    State.cleanStart_reset⟩

/-! The read ports -/

/-- A buffer's read port below its length, from there to its end, and beyond it (10_state section 3, log 9). -/
theorem State.readByte_of_holds {s : State} {sp : Space} {len : Nat} (h : (s.mem sp).Holds sp.size len) (a : Nat) :
    (a < len → ∃ b, s.readByte sp a = .ok b ∧ (s.mem sp).read a = some b) ∧
    (len ≤ a → a < sp.size → s.readByte sp a = .error (.noValue sp a)) ∧
    (sp.size ≤ a → s.readByte sp a = .error (.noSuchAddress sp a)) := by
  refine ⟨fun ha => ?_, fun hle ha => ?_, fun ha => ?_⟩
  · obtain ⟨b, hb⟩ := Option.isSome_iff_exists.1 ((h.listed a).2 ha)
    exact ⟨b, State.readByte_ok.2 ⟨ha.trans_le h.bound, hb⟩, hb⟩
  · have hnone : (s.mem sp).read a = none := by
      rw [← Option.not_isSome_iff_eq_none, h.listed]
      omega
    rw [State.readByte, if_pos ha, hnone]
  · rw [State.readByte, if_neg (Nat.not_lt.2 ha)]

/-- Settles O48: both buffers hold exactly the bytes below their lengths. -/
theorem bufferPorts : Obligations.BufferPorts := by
  intro s a hinv
  obtain ⟨htx, htxNone, htxEnd⟩ := State.readByte_of_holds (s := s) (sp := .tx) hinv.txHolds a
  obtain ⟨hrx, hrxNone, hrxEnd⟩ := State.readByte_of_holds (s := s) (sp := .rx) hinv.rxHolds a
  exact ⟨htx, htxNone, htxEnd, hrx, hrxNone, hrxEnd⟩

/-- Settles O49: `STATUS` is put together from fields that do not overlap. -/
theorem statusLayout : Obligations.StatusLayout := by
  intro s
  have herr : s.status.extractLsb' 10 2 = errKindCode s.errKind := by simp [State.status, BitVec.extractLsb'_or]
  refine ⟨?_, ?_, ?_, ?_, herr.trans ?_, ?_, ?_, ?_, ?_⟩
  case refine_3 => cases h : s.sess <;> simp [State.status, flagBit, h, sessBit]
  case refine_5 => cases s.errKind <;> rfl
  all_goals simp [State.status, flagBit, BitVec.extractLsb'_or]

end Sys2Proof.Machine
end

section
/-! The forms and laws of the CRC (40_crc16 sections 1 and 3): the table form, the bit-serial form, the bijection of the byte
step, the residue law. -/

namespace Sys2Proof.Machine

/-- Settles O16: two bytes bring the register to 0 exactly when they are its own, low byte first. -/
theorem residueLaw : Obligations.ResidueLaw := by
  have hlaw : ∀ (bs : List Byte) (lo hi : Byte), crc16 (bs ++ [lo, hi]) = 0 ↔ [lo, hi] = le16 (crc16 bs) := by
    intro bs lo hi
    rw [crc16_append_pair_eq_zero, eq_ofLe16_iff, le16]
    simp
  refine ⟨hlaw, fun hzero => ?_⟩
  have hswapped := (hlaw [0x01, 0x06, 0x00, 0x00, 0x00, 0x01] 0x0A 0x48).1 hzero
  rw [crc16_scenarioBody] at hswapped
  exact absurd hswapped (by decide)

theorem lo8_xor_zeroExtend (c : Word16) (b : Byte) : lo8 (c ^^^ b.zeroExtend 16) = lo8 c ^^^ b := by
  refine BitVec.eq_of_getLsbD_eq fun i hi => ?_
  have hi16 : i < 16 := by omega
  simp [hi, hi16]

/-- Settles O17: the byte step splits at the low byte, which alone goes through the table. -/
theorem tableFormAgrees : Obligations.TableFormAgrees := by
  intro c b
  rw [crcUpdate_split, crcUpdateByTable, lo8_xor_zeroExtend]

/-- The last of `n + 1` bit steps. -/
theorem crcBits_succ_eq_crcBit (n : Nat) (c : Word16) : crcBits (n + 1) c = crcBit (crcBits n c) := by
  induction n generalizing c with
  | zero => rfl
  | succ n ih => rw [crcBits, ih, crcBits]

/-- A bit step takes the lowest data bit into the register; the other data bits move down beside it (40_crc16 R112). -/
theorem crcBit_xor_eq_crcSerialBit (c x : Word16) :
    crcBit (c ^^^ x) = crcSerialBit c (x.getLsbD 0) ^^^ x >>> 1 := by
  rw [crcBit_eq, crcSerialBit, BitVec.getLsbD_xor, BitVec.ushiftRight_xor_distrib]
  cases c.getLsbD 0 ^^ x.getLsbD 0
  · simp
  · simp only [if_true, BitVec.xor_assoc]
    rw [BitVec.xor_comm (x >>> 1)]

/-- After `n` data bits the bit form is the serial register beside the data bits still to come. -/
theorem crcBits_xor_eq_serial (n : Nat) (c x : Word16) :
    crcBits n (c ^^^ x) = (List.range n).foldl (fun c k => crcSerialBit c (x.getLsbD k)) c ^^^ x >>> n := by
  induction n with
  | zero => simp [crcBits]
  | succ n ih =>
    rw [crcBits_succ_eq_crcBit, ih, crcBit_xor_eq_crcSerialBit, List.range_succ, List.foldl_append,
      ← BitVec.shiftRight_add, BitVec.getLsbD_ushiftRight]
    rfl

/-- Settles O18: after 8 bits no data bit of the byte is left. -/
theorem serialFormAgrees : Obligations.SerialFormAgrees := by
  intro c b
  have hbit : ∀ k, (b.zeroExtend 16).getLsbD k = b.getLsbD k := fun k => by
    by_cases hk : k < 16
    · simp [hk]
    · simp [hk, BitVec.getLsbD_of_ge b k (by omega)]
  have hrest : b.zeroExtend 16 >>> 8 = 0#16 := by
    refine BitVec.eq_of_getLsbD_eq fun k _ => ?_
    rw [BitVec.getLsbD_ushiftRight, hbit, BitVec.getLsbD_of_ge b _ (by omega), BitVec.getLsbD_zero]
  have h := crcBits_xor_eq_serial 8 c (b.zeroExtend 16)
  simp only [hrest, BitVec.xor_zero, hbit] at h
  exact h

/-- Settles O19: the byte step is injective, and there are finitely many values of the register. -/
theorem byteStepBijective : Obligations.ByteStepBijective := fun _ =>
  Finite.injective_iff_bijective.1 fun _ _ => crcUpdate_left_inj.1

end Sys2Proof.Machine
end

section
/-! The laws of the encoder and of the views (41_encoder section 2, 42_decoder sections 4 and 5): what a frame determines,
what the host presents, the echo cut to 8 bytes, and the response read back. -/

namespace Sys2Proof.Machine

/-! Frames and operands -/

/-- A U16 frame is a `WR16` request (30_encoding R76). -/
theorem decodeRequest_encodeFrame_u16 (u i x : Byte) (v : Word32) :
    decodeRequest (encodeFrame u i x .u16 v) =
      .ok (.wr16 u i x (v.setWidth 16) (lo8 (crc16 (frameBody u i x .u16 v))) (hi8 (crc16 (frameBody u i x .u16 v)))) :=
  decodeRequest_request16 u i x (v.setWidth 16) _ _

/-- A U32 frame is a `WR32` request (30_encoding R77). -/
theorem decodeRequest_encodeFrame_u32 (u i x : Byte) (v : Word32) :
    decodeRequest (encodeFrame u i x .u32 v) =
      .ok (.wr32 u i x v (lo8 (crc16 (frameBody u i x .u32 v))) (hi8 (crc16 (frameBody u i x .u32 v)))) :=
  decodeRequest_request32 u i x v _ _

theorem setWidth_eq_iff_mod {v v' : Word32} :
    v.setWidth 16 = v'.setWidth 16 ↔ v.toNat % 2 ^ 16 = v'.toNat % 2 ^ 16 := by
  rw [← BitVec.toNat_inj, BitVec.toNat_setWidth, BitVec.toNat_setWidth]

/-- Settles O24: equal frames are decoded to equal requests, and a U16 frame takes its value modulo 2^16. -/
theorem frameDeterminesOperands : Obligations.FrameDeterminesOperands := by
  intro u i x u' i' x' d d' v v'
  constructor
  · intro h
    have hdecode := congrArg decodeRequest h
    cases d <;> cases d' <;>
      simp only [decodeRequest_encodeFrame_u16, decodeRequest_encodeFrame_u32, Except.ok.injEq, Instr.wr16.injEq,
        Instr.wr32.injEq, reduceCtorEq] at hdecode
    · obtain ⟨hu, hi, hx, hv, -, -⟩ := hdecode
      exact ⟨hu, hi, hx, rfl, setWidth_eq_iff_mod.1 hv⟩
    · obtain ⟨hu, hi, hx, hv, -, -⟩ := hdecode
      exact ⟨hu, hi, hx, rfl, hv⟩
  · rintro ⟨rfl, rfl, rfl, rfl, hv⟩
    cases d with
    | u16 => rw [← encodeFrame_u16_mod, hv, encodeFrame_u16_mod]
    | u32 => rw [hv]

/-! What the host presents -/

theorem ofNat_eq_of_mod {m n : Nat} (h : m % 256 = n % 256) : BitVec.ofNat 8 m = BitVec.ofNat 8 n :=
  BitVec.eq_of_toNat_eq (by rw [BitVec.toNat_ofNat, BitVec.toNat_ofNat]; exact h)

/-- Settles O25: a non-negative integer is presented modulo 2^32, which keeps every byte below that. -/
theorem presentedValue : Obligations.PresentedValue := by
  refine ⟨fun p n => ⟨BitVec.ofNat 32 n, ?_, BitVec.toNat_ofNat n 32, ?_, ?_⟩, fun n hneg => ?_, fun n hneg => ?_, rfl⟩
  · exact if_pos (Int.natCast_nonneg n)
  · rw [valueBytes_u16_eq_ofNat, BitVec.toNat_ofNat]
    simp only [List.cons.injEq, and_true]
    exact ⟨ofNat_eq_of_mod (by omega), ofNat_eq_of_mod (by omega)⟩
  · rw [valueBytes_u32_eq_ofNat, BitVec.toNat_ofNat]
    simp only [List.cons.injEq, and_true]
    exact ⟨ofNat_eq_of_mod (by omega), ofNat_eq_of_mod (by omega), ofNat_eq_of_mod (by omega), ofNat_eq_of_mod (by omega)⟩
  · have hnone : presentValue .refuse n = none := if_neg (Int.not_le.2 hneg)
    exact ⟨hnone, fun d => by simp only [expandCmd, hnone]⟩
  · refine ⟨BitVec.ofInt 32 n, if_neg (Int.not_le.2 hneg), ?_⟩
    have hpos : 0 ≤ n % 2 ^ 32 := by omega
    exact (congrArg Int.ofNat (BitVec.toNat_ofInt (n := 32) n)).trans (Int.toNat_of_nonneg hpos)

/-! The echo cut to 8 bytes -/

theorem vCrcOf_withCrc {body : List Byte} (h : 2 ≤ body.length) : vCrcOf (withCrc body) = true := by
  rw [withCrc, le16, vCrcOf_append_pair, ofLe16_lo8_hi8]
  refine ⟨?_, rfl⟩
  simp
  omega

/-- With `V_LEN` and `V_FC` set, `VALID` is `V_CRC` (42_decoder R146). -/
theorem valid_eq_vCrc {raw : List Byte} {fc : Option Byte} (hlen : vLenOf raw = true) (hfc : vFcOf raw fc = true) :
    (decodeExchange raw fc).valid = vCrcOf raw := by
  rw [decodeExchange, hlen, hfc, Bool.true_and, Bool.and_true]

/-- Settles O29: a U16 frame is its own body with its CRC; a U32 frame's first 8 bytes are 6 bytes with two value bytes. -/
theorem cutEchoFlags : Obligations.CutEchoFlags := by
  intro u i x v
  constructor
  · have htake : (encodeFrame u i x .u16 v).take 8 = withCrc (frameBody u i x .u16 v) :=
      List.take_of_length_le (length_encodeFrame u i x .u16 v).le
    exact (valid_eq_vCrc rfl rfl).trans (htake ▸ vCrcOf_withCrc (by simp [frameBody]))
  · have htake : (encodeFrame u i x .u32 v).take 8 = (encodeFrame u i x .u32 v).take 6 ++
        [(encodeFrame u i x .u32 v).getD 6 0, (encodeFrame u i x .u32 v).getD 7 0] := rfl
    have hcrc : vCrcOf ((encodeFrame u i x .u32 v).take 8) = true ↔
        [(encodeFrame u i x .u32 v).getD 6 0, (encodeFrame u i x .u32 v).getD 7 0] =
          le16 (crc16 ((encodeFrame u i x .u32 v).take 6)) := by
      have hlen : 4 ≤ ((encodeFrame u i x .u32 v).take 8).length := by simp [length_encodeFrame]
      rw [htake] at hlen ⊢
      rw [vCrcOf_append_pair, eq_ofLe16_iff, le16, List.cons.injEq, List.cons.injEq, eq_self, and_true]
      exact and_iff_right hlen
    exact ⟨rfl, rfl, rfl, hcrc, valid_eq_vCrc rfl rfl⟩

/-! The views over a stored response -/

/-- `RXBUF` and `RXLEN` hold the response `bs` (42_decoder section 4). -/
structure State.Stored (t : State) (bs : List Byte) : Prop where
  length_le : bs.length ≤ 8
  rxLen : t.rxLen.toNat = bs.length
  read : ∀ a, a < 8 → t.rxBuf.read a = bs[a]?

theorem State.stored_putResponse (s : State) {bs : List Byte} (fc : Option Byte) (hlen : bs.length ≤ 8) :
    (s.putResponse (decodeExchange bs fc)).Stored bs where
  length_le := hlen
  rxLen := toNat_ofNat_length hlen
  read a ha := Memory.read_fill _ _ _ hlen a ha

theorem State.Stored.readByte {t : State} {bs : List Byte} (h : t.Stored bs) {a : Nat} (ha : a < bs.length) :
    t.readByte .rx a = .ok (bs.getD a 0) := by
  have hend : a < 8 := ha.trans_le h.length_le
  refine State.readByte_ok.2 ⟨hend, ?_⟩
  rw [State.mem_rx, h.read a hend, List.getElem?_eq_getElem ha, List.getD_eq_getElem _ _ ha]

theorem State.Stored.readBytes {t : State} {bs : List Byte} (h : t.Stored bs) {a n : Nat} (hn : a + n ≤ bs.length) :
    t.readBytes .rx a n = .ok ((bs.drop a).take n) := by
  have hlen := h.length_le
  refine State.readBytes_ok.2 ⟨?_, fun i hi => ⟨?_, ?_⟩⟩
  · rw [List.length_take, List.length_drop]
    omega
  · rw [Space.size_rx]
    omega
  · rw [State.mem_rx, h.read _ (by omega), List.getElem?_take_of_lt hi, List.getElem?_drop]

/-- The number of two bytes, low byte first (42_decoder R147). -/
theorem ofLe16_eq_ofNat (lo hi : Byte) : ofLe16 lo hi = BitVec.ofNat 16 (lo.toNat + 256 * hi.toNat) := by
  have hlo : (ofLe16 lo hi).toNat % 256 = lo.toNat := by
    have h := congrArg BitVec.toNat (lo8_eq_ofNat (ofLe16 lo hi))
    rw [lo8_ofLe16, BitVec.toNat_ofNat] at h
    omega
  have hhi : (ofLe16 lo hi).toNat / 256 = hi.toNat := by
    have h := congrArg BitVec.toNat (hi8_eq_ofNat (ofLe16 lo hi))
    rw [hi8_ofLe16, BitVec.toNat_ofNat] at h
    omega
  refine BitVec.eq_of_toNat_eq ?_
  rw [BitVec.toNat_ofNat]
  omega

/-- Settles O30: both operations store the bytes, and each view reads them where its own check of `RXLEN` allows. -/
theorem responseViews : Obligations.ResponseViews := by
  intro s t bs hlen ht
  have hstored : t.Stored bs := by
    rcases ht with ⟨hidle, ht⟩ | ⟨-, ht⟩
    · obtain ⟨fc, -, rfl⟩ := (exec_dec_eq_next_iff hlen hidle).1 ht
      obtain ⟨hle, hrx, hread⟩ := s.stored_putResponse fc hlen
      exact ⟨hle, hrx, hread⟩
    · obtain ⟨-, fc, -, rfl⟩ := exec_resp_eq_next_iff.1 ht
      rw [readCut_of_le hlen]
      obtain ⟨hle, hrx, hread⟩ := s.stored_putResponse fc hlen
      exact ⟨hle, hrx, hread⟩
  have hrx := hstored.rxLen
  refine ⟨fun h => ?_, fun h => ?_, fun h => ?_, fun h => ?_, fun h => ?_, fun h => ?_, fun h => ?_⟩
  · rw [State.rUnit, hrx, if_pos h, hstored.readByte (by omega)]
  · rw [State.rFc, hrx, if_pos h, hstored.readByte (by omega)]
  · rw [State.rData, hrx, if_pos h, hstored.readBytes (by omega)]
  · rw [State.rCrc, hrx, if_pos h, hstored.readByte (by omega), hstored.readByte (by omega), ← ofLe16_eq_ofNat]
  · exact ⟨_, by rw [State.rUnit, hrx, if_neg (by omega)]⟩
  · exact ⟨_, by rw [State.rFc, hrx, if_neg (by omega)]⟩
  · exact ⟨_, _, by rw [State.rData, hrx, if_neg (by omega)], by rw [State.rCrc, hrx, if_neg (by omega)]⟩

end Sys2Proof.Machine
end

section
/-! Runs of the pseudo-operations (30_encoding section 6): `CRC16` byte by byte, and an exchange as a function of the frame
and the channel's answers alone (43_session section 3). -/

namespace Sys2Proof.Machine

/-! Running what the host issues -/

theorem run_succ_of_step {s t : State} {k : Nat} {o : Host.Outcome State Fault Refusal} (h : step s = .next t)
    (hrun : Host.Core.run Sys2Proof.core k t = o) : Host.Core.run Sys2Proof.core (k + 1) s = o := by
  have hcore : Sys2Proof.core.step s = .next t := h
  rw [← hrun]
  simp only [Host.Core.run, hcore]

theorem State.issue_nil (s : State) : s.issue [] = s := by
  simp [State.issue]

theorem State.commands_issue_cons {s : State} {i : Instr} {cw raw : Word64} (is : List Instr) (hnone : s.commands = [])
    (hencode : encode i = .command cw raw) :
    (s.issue (i :: is)).commands = ⟨cw, raw, false⟩ :: (s.issue is).commands := by
  simp [State.issue, hnone, hencode]

/-- An idle block runs the first command of those issued, with the others still to come. -/
theorem step_issue_cons {s : State} {i : Instr} {cw raw : Word64} (is : List Instr) (hidle : s.sess = .idle)
    (hacc : s.sendAccepted = false) (hnone : s.commands = []) (hwf : i.WellFormed) (hencode : encode i = .command cw raw) :
    step (s.issue (i :: is)) = exec i (s.issue is) :=
  step_of_command (State.commands_issue_cons is hnone hencode) (.inl ⟨hidle, hacc⟩) (decodeCommand_of_encode hwf hencode)

/-! `CRC16` -/

/-- `CRC.UPDATE` per byte, then `CRC.READ`, continue the computation under way (40_crc16 section 2). -/
theorem run_crcUpdates_crcRead (bs : List Byte) {s : State} (hidle : s.sess = .idle) (hacc : s.sendAccepted = false)
    (hnone : s.commands = []) :
    Host.Core.run Sys2Proof.core (bs.length + 1) (s.issue (bs.map .crcUpdate ++ [.crcRead])) =
      .next { s with
        crc := crcFeed s.crc bs
        results := s.results ++ List.replicate bs.length .ok ++
          [.okCrc (crcFeed s.crc bs) (lo8 (crcFeed s.crc bs)) (hi8 (crcFeed s.crc bs))] } := by
  induction bs generalizing s with
  | nil =>
    have hstep : step (s.issue [.crcRead]) =
        .next { s with results := s.results ++ [.okCrc s.crc (lo8 s.crc) (hi8 s.crc)] } := by
      rw [step_issue_cons [] hidle hacc hnone rfl rfl, State.issue_nil, exec_crcRead, State.unlessBusy_idle hidle]
    refine run_succ_of_step hstep ?_
    simp [Host.Core.run]
  | cons b bs ih =>
    have hstep : step (s.issue (.crcUpdate b :: (bs.map .crcUpdate ++ [.crcRead]))) =
        .next (State.issue { s with crc := crcUpdate s.crc b, results := s.results ++ [.ok] }
          (bs.map .crcUpdate ++ [.crcRead])) :=
      (step_issue_cons _ hidle hacc hnone rfl rfl).trans (State.unlessBusy_idle (s := s.issue _) hidle _)
    have hrest := ih (s := { s with crc := crcUpdate s.crc b, results := s.results ++ [.ok] }) hidle hacc hnone
    refine run_succ_of_step hstep (hrest.trans ?_)
    simp [List.replicate_succ]

/-- Settles O15: `CRC.INIT` starts the computation that the other commands continue. -/
theorem streamingComputesCrc16 : Obligations.StreamingComputesCrc16 := by
  intro s bs hidle hacc hnone
  have hstep : step (s.issue (expandCrc16 bs)) =
      .next (State.issue { s with crc := 0xFFFF, results := s.results ++ [.ok] } (bs.map .crcUpdate ++ [.crcRead])) :=
    (step_issue_cons _ hidle hacc hnone rfl rfl).trans (State.unlessBusy_idle (s := s.issue _) hidle _)
  have hrest := run_crcUpdates_crcRead bs (s := { s with crc := 0xFFFF, results := s.results ++ [.ok] }) hidle hacc hnone
  refine run_succ_of_step hstep (hrest.trans ?_)
  simp [crc16_eq, List.replicate_succ]

/-! An exchange -/

/-- The result registers and the response of an exchange that ends with a channel error (60_exceptions R187). -/
def failedRecord : ExchangeRecord := ⟨false, .channelIo, [], false, false, false, false⟩

/-- What an exchange leaves in the receive registers, by the policy, the frame, its function code, and the channel's answers
to the write and to the read (43_session R162, R163). -/
def exchangeRecord (p : ShortWritePolicy) (f : List Byte) (fc : Option Byte) (w : WriteAnswer) (a : ReadAnswer) :
    ExchangeRecord :=
  match writeOutcomeOf p f.length w, a with
  | .ioerror, _ => failedRecord
  | .written, .ioerror => failedRecord
  | .written, .bytes r => decodeExchange (readCut r) fc

/-- What an exchange puts on the wire: one write, and one read if the write succeeded (43_session R162, R163). -/
def exchangeEvents (p : ShortWritePolicy) (f : List Byte) (w : WriteAnswer) (a : ReadAnswer) : List WireEvent :=
  match writeOutcomeOf p f.length w with
  | .ioerror => [.write f]
  | .written => [.write f, .read (cutAnswer a)]

section
variable {p : ShortWritePolicy} {f : List Byte} {w : WriteAnswer}

theorem exchangeRecord_of_takenAsError (h : TakenAsError p f.length w) (fc : Option Byte) (a : ReadAnswer) :
    exchangeRecord p f fc w a = failedRecord := by
  simp only [exchangeRecord, h.eq]

theorem exchangeRecord_of_ioerror (h : TakenAsWritten p f.length w) (fc : Option Byte) :
    exchangeRecord p f fc w .ioerror = failedRecord := by
  simp only [exchangeRecord, h.eq]

theorem exchangeRecord_of_bytes (h : TakenAsWritten p f.length w) (fc : Option Byte) (r : List Byte) :
    exchangeRecord p f fc w (.bytes r) = decodeExchange (r.take 8) fc := by
  simp only [exchangeRecord, h.eq, readCut]

theorem exchangeEvents_of_takenAsError (h : TakenAsError p f.length w) (a : ReadAnswer) :
    exchangeEvents p f w a = [.write f] := by
  simp only [exchangeEvents, h.eq]

theorem exchangeEvents_of_takenAsWritten (h : TakenAsWritten p f.length w) (a : ReadAnswer) :
    exchangeEvents p f w a = [.write f, .read (cutAnswer a)] := by
  simp only [exchangeEvents, h.eq]

end

/-- An exchange in the state `s` has ended in `t` with the record `r` and the wire events `es`. -/
structure State.Exchanged (s : State) (r : ExchangeRecord) (es : List WireEvent) (t : State) : Prop where
  final : t.Final
  crc : t.crc = s.crc
  txBuf : t.txBuf = s.txBuf
  txLen : t.txLen = s.txLen
  rxRegs : t.rxRegs = (s.putResponse r).rxRegs
  wire : t.wire = s.wire ++ es
  results : t.results = s.results ++ [.okExchange r.success r.resp r.errKind]

theorem length_exchangeRecord_le (p : ShortWritePolicy) (f : List Byte) (fc : Option Byte) (w : WriteAnswer)
    (a : ReadAnswer) : (exchangeRecord p f fc w a).resp.length ≤ 8 := by
  unfold exchangeRecord
  split
  · exact Nat.zero_le _
  · exact Nat.zero_le _
  · exact readCut_length_le _

/-- The response of an ended exchange is read back (42_decoder R147). -/
theorem State.Exchanged.response {s t : State} {r : ExchangeRecord} {es : List WireEvent} (h : s.Exchanged r es t)
    (hlen : r.resp.length ≤ 8) : t.response = .ok r.resp := by
  have hbuf : t.rxBuf = (s.putResponse r).rxBuf := congrArg RxRegs.rxBuf h.rxRegs
  have hrx : t.rxLen = (s.putResponse r).rxLen := congrArg RxRegs.rxLen h.rxRegs
  rw [State.response, hrx, State.toNat_rxLen_putResponse s hlen]
  exact State.readBytes_of_fill hlen hbuf

/-- With a `SEND` accepted, the two steps of the block make the exchange (43_session section 1). -/
theorem run_exchange {s : State} {f : List Byte} {w : WriteAnswer} {ws : List WriteAnswer} {m : Nat} {a : ReadAnswer}
    {as : List ReadAnswer} {n : Nat} (hinv : s.InvR41) (hidle : s.sess = .idle) (hacc : s.sendAccepted = true)
    (hframe : s.txLen ≠ 0) (hnone : s.commands = []) (hf : s.frame = .ok f) (hw : s.NextWrite w ws m)
    (ha : ({ s with draws := m }).NextRead a as n) :
    ∃ t, Host.Core.run Sys2Proof.core 2 s = .next t ∧
      s.Exchanged (exchangeRecord s.shortWritePolicy f (s.txBuf.read 1) w a) (exchangeEvents s.shortWritePolicy f w a) t := by
  have hstep := step_of_frame hidle hacc hf
  rcases writeOutcomeOf_cases s.shortWritePolicy f.length w with ⟨-, htaken⟩ | ⟨-, htaken⟩
  · rw [State.sendTx_of_takenAsWritten hw htaken] at hstep
    obtain ⟨hinv', -⟩ := stepKeepsInvR41 _ _ hinv (fun _ => ⟨hidle, hframe⟩) hstep
    have hread := step_of_nextRead hinv' rfl (by simp [State.HostWaits, hnone]) (a := a) (as := as) (d := n) ha
    rw [exchangeEvents_of_takenAsWritten htaken]
    refine ⟨_, run_succ_of_step hstep (run_succ_of_step hread rfl), ?_⟩
    cases a with
    | ioerror =>
      rw [exchangeRecord_of_ioerror htaken]
      exact ⟨⟨hnone, rfl, rfl⟩, rfl, rfl, rfl, rfl, List.append_assoc _ _ _, rfl⟩
    | bytes r =>
      rw [exchangeRecord_of_bytes htaken]
      exact ⟨⟨hnone, rfl, rfl⟩, rfl, rfl, rfl, rfl, List.append_assoc _ _ _, rfl⟩
  · rw [State.sendTx_of_takenAsError hw htaken] at hstep
    rw [exchangeRecord_of_takenAsError htaken, exchangeEvents_of_takenAsError htaken]
    refine ⟨_, run_succ_of_step hstep (run_succ_of_step (step_of_rest rfl rfl hnone) rfl), ?_⟩
    exact ⟨⟨hnone, rfl, rfl⟩, rfl, rfl, rfl, rfl, rfl, rfl⟩

/-- `SEND` from an idle start with a frame: the acceptance, then the exchange (43_session section 1). -/
theorem run_send {s : State} {f : List Byte} {w : WriteAnswer} {ws : List WriteAnswer} {m : Nat} {a : ReadAnswer}
    {as : List ReadAnswer} {n : Nat} (hstart : s.IdleStart) (hframe : s.txLen ≠ 0) (hnone : s.commands = [])
    (hf : s.frame = .ok f) (hw : s.NextWrite w ws m) (ha : ({ s with draws := m }).NextRead a as n) :
    ∃ t, Host.Core.run Sys2Proof.core 3 (s.issue [.send]) = .next t ∧
      s.Exchanged (exchangeRecord s.shortWritePolicy f (s.txBuf.read 1) w a) (exchangeEvents s.shortWritePolicy f w a) t := by
  obtain ⟨hidle, hfree, hinv⟩ := hstart
  have hsend : Completes s .send { s with sendAccepted := true } := .send hidle hframe
  have hstep : step (s.issue [.send]) = .next { s with sendAccepted := true } := by
    rw [step_issue_cons [] hidle hfree hnone rfl rfl, State.issue_nil, exec_eq_next_iff.2 hsend]
  have hf' : State.frame { s with sendAccepted := true } = .ok f :=
    (State.frame_congr (s := { s with sendAccepted := true }) (t := s) rfl rfl).trans hf
  obtain ⟨hinv', -⟩ := hsend.keeps_invR41 hinv (by simp [State.AcceptedWithFrame, hfree])
  obtain ⟨t, hrun, hend⟩ := run_exchange hinv' hidle rfl hframe hnone hf' hw ha
  obtain ⟨hfinal, hcrc, hbuf, hlen, hrx, hwire, hresults⟩ := hend
  exact ⟨t, run_succ_of_step hstep hrun, hfinal, hcrc, hbuf, hlen, hrx, hwire, hresults⟩

/-- Two buffers of 8 bytes filled with the same response are the same data. -/
theorem State.rxRegs_putResponse_congr {s s' : State} {r : ExchangeRecord} (hwf : s.rxBuf.wf Config.rxMax)
    (hwf' : s'.rxBuf.wf Config.rxMax) (hlen : r.resp.length ≤ 8) :
    (s.putResponse r).rxRegs = (s'.putResponse r).rxRegs := by
  have hbuf : s.rxBuf.fill Config.rxMax r.resp = s'.rxBuf.fill Config.rxMax r.resp := by
    refine Memory.ext_of_wf (Memory.wf_fill hwf hlen) (Memory.wf_fill hwf' hlen) fun a => ?_
    by_cases ha : a < 8
    · rw [Memory.read_fill _ _ _ hlen a ha, Memory.read_fill _ _ _ hlen a ha]
    · rw [Memory.read_none_of_wf (Memory.wf_fill hwf hlen) (Nat.le_of_not_lt ha),
        Memory.read_none_of_wf (Memory.wf_fill hwf' hlen) (Nat.le_of_not_lt ha)]
  simp [State.rxRegs, hbuf]

theorem State.exists_nextWrite (s : State) : ∃ a as d, s.NextWrite a as d := by
  cases h : s.writeAnswers with
  | nil => exact ⟨_, _, _, .inr ⟨h, rfl, rfl, rfl⟩⟩
  | cons a as => exact ⟨a, as, _, .inl ⟨h, rfl⟩⟩

/-- Settles O38: the record and the events of an exchange are functions of what the two blocks share. -/
theorem exchangesIndependent : Obligations.ExchangesIndependent := by
  intro s s' hstart hstart' hframe hnone hnone' hbuf hlen hwrites hreads hdraws hpolicy
  obtain ⟨f, hf, -⟩ := hstart.inv.txCrc hframe
  obtain ⟨w, ws, m, hw⟩ := s.exists_nextWrite
  obtain ⟨a, as, n, ha⟩ := ({ s with draws := m } : State).exists_nextRead
  have hf' : s'.frame = .ok f := (State.frame_congr hbuf hlen).symm.trans hf
  have hw' : s'.NextWrite w ws m := by rwa [State.NextWrite, hwrites, hdraws] at hw
  have ha' : ({ s' with draws := m } : State).NextRead a as n := by simpa only [State.NextRead, hreads] using ha
  obtain ⟨t, hrun, hend⟩ := run_send hstart hframe hnone hf hw ha
  obtain ⟨t', hrun', hend'⟩ := run_send hstart' (hlen ▸ hframe) hnone' hf' hw' ha'
  rw [← hbuf, ← hpolicy] at hend'
  have hrx : t.rxRegs = t'.rxRegs := by
    rw [hend.rxRegs, hend'.rxRegs]
    exact State.rxRegs_putResponse_congr hstart.inv.rxWf hstart'.inv.rxWf (length_exchangeRecord_le _ _ _ _ _)
  simp only [State.rxRegs, RxRegs.mk.injEq] at hrx
  obtain ⟨hrxBuf, hrxLen, hsuccess, herrKind, hvLen, hvCrc, hvFc, hvalid⟩ := hrx
  exact ⟨t, t', hrun, hrun', hsuccess, herrKind, hrxBuf, hrxLen, hvLen, hvCrc, hvFc, hvalid, _, _, hend.results,
    hend'.results, hend.wire, hend'.wire⟩

/-! `XCHG` -/

/-- The state after `ENC` in an idle state (41_encoder R122). -/
def State.encoded (s : State) (u i x : Byte) (d : DType) (v : Word32) : State :=
  (s.putFrame (encodeFrame u i x d v)).pushResult (.okFrame (encodeFrame u i x d v))

theorem State.frame_encoded (s : State) (u i x : Byte) (d : DType) (v : Word32) :
    (s.encoded u i x d v).frame = .ok (encodeFrame u i x d v) :=
  calc
    (s.encoded u i x d v).frame = (s.putFrame (encodeFrame u i x d v)).frame := State.frame_congr rfl rfl
    _ = .ok (encodeFrame u i x d v) := s.frame_putFrame _ (length_encodeFrame_le u i x d v)

theorem completes_enc {s : State} (hidle : s.sess = .idle) (u i x : Byte) (d : DType) (v : Word32) :
    Completes s (.enc u i x d v) (s.encoded u i x d v) := .enc hidle

/-- `ENC` leaves an idle start (70_reset_and_hazards R233). -/
theorem State.IdleStart.encoded {s : State} (h : s.IdleStart) (u i x : Byte) (d : DType) (v : Word32) :
    (s.encoded u i x d v).IdleStart := by
  obtain ⟨hidle, hfree, hinv⟩ := h
  obtain ⟨hinv', -⟩ := (completes_enc hidle u i x d v).keeps_invR41 hinv (by simp [State.AcceptedWithFrame, hfree])
  exact ⟨hidle, hfree, hinv'⟩

/-- `XCHG` from an idle start: the frame of its operands is encoded, and the exchange is made with it (30_encoding R91). -/
theorem run_xchg {s : State} (u i x : Byte) (d : DType) (v : Word32) {w : WriteAnswer} {ws : List WriteAnswer} {m : Nat}
    {a : ReadAnswer} {as : List ReadAnswer} {n : Nat} (hstart : s.IdleStart) (hnone : s.commands = [])
    (hw : s.NextWrite w ws m) (ha : ({ s with draws := m }).NextRead a as n) :
    ∃ t, Host.Core.run Sys2Proof.core 4 (s.issue (expandXchg u i x d v)) = .next t ∧
      (s.encoded u i x d v).Exchanged
        (exchangeRecord s.shortWritePolicy (encodeFrame u i x d v) ((s.encoded u i x d v).txBuf.read 1) w a)
        (exchangeEvents s.shortWritePolicy (encodeFrame u i x d v) w a) t := by
  have hstep : step (s.issue (expandXchg u i x d v)) = .next ((s.encoded u i x d v).issue [.send]) :=
    (step_issue_cons _ hstart.idle hstart.free hnone rfl rfl).trans
      (State.unlessBusy_idle (s := s.issue _) hstart.idle _)
  obtain ⟨t, hrun, hend⟩ := run_send (hstart.encoded u i x d v) (txLen_encodeFrame_ne_zero s u i x d v) hnone
    (s.frame_encoded u i x d v) hw ha
  exact ⟨t, run_succ_of_step hstep hrun, hend⟩

/-- Settles O37: the outcome of the exchange by the channel's answers, with the registers and the traces it leaves. -/
theorem xchgProgram : Obligations.XchgProgram := by
  intro s u i x d v w ws m a as n hstart hnone hw ha
  obtain ⟨t, hrun, hend⟩ := run_xchg u i x d v hstart hnone hw ha
  have hresponse := hend.response (length_exchangeRecord_le _ _ _ _ _)
  have hframe : t.frame = .ok (encodeFrame u i x d v) :=
    (State.frame_congr hend.txBuf hend.txLen).trans (s.frame_encoded u i x d v)
  have hsuccess := congrArg RxRegs.success hend.rxRegs
  have herrKind := congrArg RxRegs.errKind hend.rxRegs
  have hwire := hend.wire
  have hresults := hend.results.trans (List.append_assoc _ _ _)
  refine ⟨t, hrun, hend.final, hend.crc, hframe, fun htaken => ⟨?_, fun r hr => ?_⟩, fun htaken => ?_⟩
  · rintro rfl
    rw [exchangeRecord_of_ioerror htaken] at hresponse hsuccess herrKind hresults
    rw [exchangeEvents_of_takenAsWritten htaken] at hwire
    exact ⟨hwire, hresults, hsuccess, herrKind, hresponse⟩
  · subst hr
    rw [exchangeRecord_of_bytes htaken] at hresponse hsuccess herrKind hresults
    rw [exchangeEvents_of_takenAsWritten htaken] at hwire
    refine ⟨hwire, hresponse, fun hne => ?_, fun hnil => ?_⟩
    · have hpos : 0 < (r.take 8).length := by
        have hlen := List.length_pos_iff.2 hne
        rw [List.length_take]
        omega
      have hok : successOf (r.take 8) = true := successOf_eq_true.2 hpos
      have hnoError : errKindOf (r.take 8) = .noError := if_pos hpos
      simp only [decodeExchange, hok, hnoError] at hresults
      exact ⟨hresults, hsuccess.trans hok, herrKind.trans hnoError⟩
    · subst hnil
      exact ⟨hresults, hsuccess, herrKind⟩
  · rw [exchangeRecord_of_takenAsError htaken] at hresponse hsuccess herrKind hresults
    rw [exchangeEvents_of_takenAsError htaken] at hwire
    exact ⟨hwire, hresults, hsuccess, herrKind, hresponse⟩

end Sys2Proof.Machine
end
